-- ==== Sys2Proof/Word.lean ====
section
/-! DEFINITION. The plain word types of the Jastrin 4816 model and the names of its numbered parts
(spec/00_scope.md, Numbering). Nothing here computes anything a manual rule could change. -/

namespace Sys2Proof

/-- One byte of host memory, of a link frame entry or of an acknowledgement. -/
abbrev Byte := BitVec 8

/-- One 32-bit word of the register window or of a write-back unit. -/
abbrev Word32 := BitVec 32

/-- A 64-bit byte address in host memory. -/
abbrev Addr := BitVec 64

/-- Heads H0 to H15. -/
abbrev HeadId := Fin 16

/-- Channels C0 to C31: channel 2h is row A of head h, channel 2h + 1 its row B. -/
abbrev ChanId := Fin 32

/-- The 16 read tags of the Memory Port (R39). -/
abbrev TagId := Fin 16

/-- The planes P0 to P7. -/
abbrev PlaneId := Fin 8

end Sys2Proof
end

