-- ==== Sys2Proof/Syntax.lean ====
section
/-! DEFINITION. The commands of the block: one constructor per row of spec/opcode_table.json, in the
table's order. A row is an event at a pin, a write or a read of the register window, a PCIe event, or one of
the part's own steps (spec/95_what_each_step_holds.md: each whole and indivisible). The operands name what a
row acts on (a channel, a head, a tag, a transfer) and carry what comes from outside (a written value, the
bytes of a completion, an acknowledgement). Register writes carry the four byte enables of R193. -/

namespace Sys2Proof

/-- What a head sends on its return lane (R197): a byte, least significant bit first, and the tick at which the
first of its eight bits arrives. -/
structure LaneReturn where
  bit0 : Nat
  byte : Byte
  deriving DecidableEq, Repr

inductive Instr where
  /-- FORWARD_COUNT (R6): the legal transition that the direction in force counts forward. -/
  | forwardCount
  /-- BACKWARD_COUNT (R7): the legal transition that the direction in force counts backward. -/
  | backwardCount
  /-- ILLEGAL_TRANSITION (R3): both encoder inputs change. -/
  | illegalTransition
  /-- STROBE_PULSE_END (R139): the 20-tick pulse of channel `c` ends. -/
  | strobePulseEnd (c : ChanId)
  /-- PERIOD_END (R137): the firing period of channel `c` ends. -/
  | periodEnd (c : ChanId)
  /-- PRODUCT_EDGE (R9): PRODUCT_DETECT changes in the direction of the polarity. -/
  | productEdge
  /-- START (R180). -/
  | start
  /-- STOP (R181). -/
  | stop
  /-- ABORT (R185). -/
  | abort
  /-- ENGINE_RESET (R188). -/
  | engineReset
  /-- POKE (R33), the command code 0x05. -/
  | poke
  /-- POKE_REGISTER_WRITE (R33, R198): a write of `value` to the POKE word. -/
  | pokeRegisterWrite (value : Word32) (bytes : BitVec 4)
  /-- UNKNOWN_COMMAND_CODE (R198): a write of `value` to ENGINE_CONTROL. -/
  | unknownCommandCode (value : Word32) (bytes : BitVec 4)
  /-- LIST_HEAD_WRITE (R24): a write to the high or the low word of LIST_HEAD. -/
  | listHeadWrite (high : Bool) (value : Word32) (bytes : BitVec 4)
  /-- EVENTS_WRITE (R190). -/
  | eventsWrite (value : Word32) (bytes : BitVec 4)
  /-- EVENT_ENABLE_WRITE (R191). -/
  | eventEnableWrite (value : Word32) (bytes : BitVec 4)
  /-- CURRENT_RECORD_LOW_READ (R193): a read of the bytes `bytes` of the low word. -/
  | currentRecordLowRead (bytes : BitVec 4)
  /-- CURRENT_RECORD_HIGH_READ (R193): a read of the bytes `bytes` of the high word. -/
  | currentRecordHighRead (bytes : BitVec 4)
  /-- REGISTER_WRITE (R193): a write at byte offset `offset` of the 4 KiB window. -/
  | registerWrite (offset : BitVec 12) (value : Word32) (bytes : BitVec 4)
  /-- CHIP_RESET (R174), with the levels that ENC_A, ENC_B and PRODUCT_DETECT show at the first sample. -/
  | chipReset (encA encB product : Bool)
  /-- HEADER_READ_COMPLETE (R25). -/
  | headerReadComplete
  /-- BODY_READ_COMPLETE (R26): a part of the body, the fixed fields or the list, is complete. -/
  | bodyReadComplete
  /-- NEXT_FIELD_READ_COMPLETE (R27). -/
  | nextFieldReadComplete
  /-- RECORD_READ_FAILED (R36). -/
  | recordReadFailed
  /-- BAND_ADMIT (R43). -/
  | bandAdmit
  /-- NOZZLE_EDIT_STAGED (R90). -/
  | nozzleEditStaged
  /-- NOZZLE_EDIT_IMMEDIATE (R94). -/
  | nozzleEditImmediate
  /-- STAGED_PROMOTION (R92) of head `h`. -/
  | stagedPromotion (h : HeadId)
  /-- LAYOUT_TAKEN (R30). -/
  | layoutTaken
  /-- LAYOUT_BLOCK_READ_COMPLETE (R70). -/
  | layoutBlockReadComplete
  /-- LAYOUT_RECORD_CLOSE (R81). -/
  | layoutRecordClose
  /-- BAND_CLOSE (R59). -/
  | bandClose
  /-- WRITEBACK_UNIT_FAILED (R38): the oldest failed unit is reported; `issued` of its writes had gone out. -/
  | writebackUnitFailed (issued : Nat)
  /-- DRAIN_END (R181). -/
  | drainEnd
  /-- ABORT_END (R187). -/
  | abortEnd
  /-- READ_COMPLETION (R40) for tag `tag`: `ok` is its status, `data` its bytes in address order. -/
  | readCompletion (tag : TagId) (ok : Bool) (data : List Byte)
  /-- READ_REQUEST_TIMEOUT (R40). -/
  | readRequestTimeout (tag : TagId)
  /-- TAG_HOLD_EXPIRY (R40). -/
  | tagHoldExpiry (tag : TagId)
  /-- FETCH_GRANT (R109). -/
  | fetchGrant
  /-- FETCH_COMPLETE (R111) of the line fetch whose transfer is numbered `xfer`. -/
  | fetchComplete (xfer : Nat)
  /-- FETCH_FAIL (R112) of the line fetch whose transfer is numbered `xfer`. -/
  | fetchFail (xfer : Nat)
  /-- FRAME_BEGIN (R160) on the link of head `h`. -/
  | frameBegin (h : HeadId)
  /-- FRAME_END (R161) on the link of head `h`. -/
  | frameEnd (h : HeadId)
  /-- ACK_RECEIVED (R157, R197): head `h` returns `ack` on its return lane. -/
  | ackReceived (h : HeadId) (ack : LaneReturn)
  /-- ACK_TIMEOUT (R157) on the link of head `h`. -/
  | ackTimeout (h : HeadId)
  /-- LINK_RESET_END (R161) on the link of head `h`. -/
  | linkResetEnd (h : HeadId)
  /-- QUERY_TIMER_EXPIRY (R165) of head `h`. -/
  | queryTimerExpiry (h : HeadId)
  /-- PCIE_LINK_DOWN (R40). -/
  | pcieLinkDown
  /-- PCIE_LINK_UP (R41). -/
  | pcieLinkUp
  /-- PRODUCT_DETECT_OTHER_CHANGE (R9). -/
  | productDetectOtherChange
  deriving DecidableEq, Repr

end Sys2Proof
end

