-- ==== Sys2Proof/Decode.lean ====
section
/-! DEFINITION. The decoder over the rows of spec/opcode_table.json that give bits. No row of this table gives
any (98_reader.md: n_rows_with_fixed 0, n_rows_with_fields 0), so no word spells a command. -/

namespace Sys2Proof

/-- The command a word spells by the table's bits: none, whatever the word, because no row gives bits. -/
def decodeTableWord (_nbits _w : Nat) : Option Instr := none

end Sys2Proof
end

