-- ==== Sys2Proof/Config.lean ====
section
/-! DEFINITION. The constants the manual fixes for the part. Every one is a number of the manual; the
part has no implementation-defined parameter and no free value (log entry 20). -/

namespace Sys2Proof.Config

/-- 2^24, one line in the units of the web position's fraction (R4). -/
def fracUnit : Nat := 16777216
/-- One past the largest web position in 2^-24 line: 2^56 (R4). -/
def positionTop : Nat := 72057594037927936
/-- 2^48, the first sum a 48-bit anchor or line count cannot hold (R46, R51). -/
def anchorTop : Nat := 281474976710656
/-- Captures the product queue holds at most (R12). -/
def productQueueMax : Nat := 8
/-- Bands the window holds at most (R42). -/
def windowMax : Nat := 64
/-- Composed lines a channel's queue holds at most (R132). -/
def lineQueueMax : Nat := 32
/-- Nozzle indices a set holds at most (R85). -/
def nozzleSetMax : Nat := 128
/-- Indices one edit record lists at most (R26, R87). -/
def editListMax : Nat := 64
/-- The index limit of a head that is absent (R85). -/
def absentNozzleLimit : Nat := 4096
/-- Bytes of one PCIe read request at most (R39). -/
def requestMax : Nat := 256
/-- The boundary no read request and no write crosses (R39, R41). -/
def pageBytes : Nat := 4096
/-- Free tags a line fetch's request needs (R39, R109). -/
def fetchTagReserve : Nat := 3
/-- Requests one record transfer holds in flight at most (R39). -/
def recordRequestsMax : Nat := 2
/-- Ticks after which a read request has timed out (R40). -/
def readTimeout : Nat := 5000
/-- Ticks a timed-out request goes on holding its tag (R40). -/
def tagHold : Nat := 50000
/-- Ticks of one fire strobe (R139). -/
def strobeTicks : Nat := 20
/-- Ticks of the answer window (R157). -/
def answerWindow : Nat := 200
/-- Ticks from the first bit of an acknowledgement to its last (R197). -/
def ackTicks : Nat := 7
/-- Ticks of one LINK_RESET pulse (R161, R172). -/
def linkResetTicks : Nat := 100
/-- Ticks between two queries of a parked head (R165). -/
def queryInterval : Nat := 100000
/-- Bytes of a layout block (10.5). -/
def layoutBlockBytes : Nat := 832
/-- Bytes of a record header (10.2). -/
def headerBytes : Nat := 16

end Sys2Proof.Config
end

