-- ==== Sys2Proof/Machine/State.lean ====
section
/-! DEFINITION. The state of the part as plain data, block by block (each kind of state has one block that
owns it, spec/00_scope.md), the reset value, and the reasons a step can stop. Derived facts of the manual (the
channel list, offsets, partners, overlaps, O_min, channel states, targets, pins) are functions over this state
in Machine/, so that nothing is stored twice. Types and plain setters only: nothing here is a rule. -/

namespace Sys2Proof.Machine

/-! ## Position Unit -/

/-- A web position: 32-bit integer part and 24-bit fraction (R4). -/
structure Position where
  line : BitVec 32
  frac : BitVec 24
  deriving DecidableEq, Repr

/-- The Position Unit (table of chapter 1). -/
structure PositionUnit where
  /-- decoder state: the last sampled (ENC_A, ENC_B) (R1) -/
  encA : Bool
  encB : Bool
  /-- web position P (R4) -/
  pos : Position
  /-- last sampled level of PRODUCT_DETECT (R9) -/
  productLevel : Bool
  /-- lockout reference, or none (R11) -/
  lockoutRef : Option (BitVec 40)
  /-- product queue, oldest first (R12) -/
  productQueue : List (BitVec 40)
  deriving DecidableEq, Repr

/-! ## Records and the List Reader -/

/-- One plane entry of a band record, for plane `plane` (10.3). -/
structure PlaneSource where
  plane : PlaneId
  base : Addr
  stride : BitVec 32
  first : BitVec 16
  tile : BitVec 16
  deriving DecidableEq, Repr

/-- The fields of a band record the part reads (10.3). -/
structure BandRecord where
  lines : BitVec 16
  planes : BitVec 8
  pageStart : Bool
  pageEnd : Bool
  continuous : Bool
  notify : Bool
  offset : BitVec 32
  sources : List PlaneSource
  deriving DecidableEq, Repr

/-- The OP field of a nozzle-edit record; its fourth value names no operation (R87). -/
inductive EditOp where
  | add | remove | replace | noOperation
  deriving DecidableEq, Repr

/-- The fields of a nozzle-edit record (10.4), HEAD and COUNT already taken as R87 says. -/
structure EditRecord where
  head : HeadId
  immediate : Bool
  op : EditOp
  notify : Bool
  indices : List Nat
  deriving DecidableEq, Repr

/-- The fields of a layout record (10.5). -/
structure LayoutRecord where
  block : Addr
  notify : Bool
  deriving DecidableEq, Repr

/-- The three known record types (R21). -/
inductive RecordType where
  | band | edit | layout
  deriving DecidableEq, Repr

/-- A record read whole, by type. -/
inductive RecordBody where
  | band (b : BandRecord)
  | edit (e : EditRecord)
  | layout (l : LayoutRecord)
  deriving DecidableEq, Repr

/-- The reader conditions of R23, as ENGINE_STATUS shows them. -/
inductive ReaderCondition where
  | reading | waitingWindow | waitingEdit | waitingDrain | configuringLayout | suspendedOwner | suspendedEnd
  deriving DecidableEq, Repr

/-- What the reader has in hand: a read in flight (its transfer's number), a held record, or a record taken
and not yet closed, each with its copy of NEXT (R25 to R30). -/
inductive ReaderWork where
  | idle
  | headerRead (xfer : Nat)
  | bodyFixed (xfer : Nat) (type : RecordType) (next : Addr)
  | bodyList (xfer : Nat) (type : RecordType) (next : Addr) (fixed : List Byte)
  | nextRead (xfer : Nat)
  /-- read whole and not taken; `abandoned` is set by STOP (R34) -/
  | held (body : RecordBody) (next : Addr) (abandoned : Bool)
  /-- an edit being carried out (R29, R97) -/
  | editing (e : EditRecord) (next : Addr)
  /-- a layout record taken, its block read in flight (R30) -/
  | blockRead (xfer : Nat) (l : LayoutRecord) (next : Addr)
  /-- an applied layout whose heads are being configured, with its RESULT flag byte (R80, R81) -/
  | configuring (l : LayoutRecord) (flags : BitVec 8) (next : Addr)
  deriving DecidableEq, Repr

/-- The List Reader (table of 2.2), with LIST_HEAD (R24). -/
structure Reader where
  listHead : Addr
  addr : Addr
  cond : ReaderCondition
  pokePending : Bool
  work : ReaderWork
  deriving DecidableEq, Repr

/-! ## Band Window and pages -/

/-- One open band (table of R42). `id` is its place in admission order. -/
structure BandEntry where
  id : Nat
  addr : Addr
  lines : Nat
  mask : BitVec 8
  sources : List PlaneSource
  pageStart : Bool
  pageEnd : Bool
  continuous : Bool
  notify : Bool
  offset : BitVec 32
  page : Nat
  firstLine : Nat
  outstanding : Nat
  fired : Nat
  starved : Nat
  dropped : Nat
  skipped : Nat
  dataFaults : Nat
  lost : Nat
  parkedSeen : Bool
  late : Bool
  slipped : Bool
  overlap : Bool
  deriving DecidableEq, Repr

/-- The binding state of a page, with its 48-bit anchor once known (R44). -/
inductive PageBinding where
  | unbound
  | following
  | bound (anchor : BitVec 48)
  | late (anchor : BitVec 48)
  deriving DecidableEq, Repr

/-- A page record (R44). `pred` is the previous page it was opened behind, none when the first-page mark was
set as it opened (R51, R52). -/
structure Page where
  id : Nat
  continuous : Bool
  binding : PageBinding
  count : Nat
  ended : Bool
  firstBand : Nat
  pred : Option Nat
  deriving DecidableEq, Repr

/-- The Band Window and its page state (R42, R44). `nextBand` and `nextPage` number bands and pages in the
order of their admission and opening. -/
structure Window where
  bands : List BandEntry
  pages : List Page
  openPage : Option Nat
  prevPage : Option Nat
  firstPage : Bool
  unbound : List Nat
  nextBand : Nat
  nextPage : Nat
  deriving DecidableEq, Repr

/-! ## Layout Store -/

/-- A present head's entry, clamped (10.5, R69, R72). -/
structure HeadEntry where
  plane : PlaneId
  inService : Bool
  lanes : Nat
  waveform : BitVec 4
  firstColumn : Nat
  nozzles : Nat
  period : Nat
  headOffset : Nat
  rowOffset : Nat
  trim : Int
  level1 : BitVec 3
  level2 : BitVec 3
  level3 : BitVec 3
  deriving DecidableEq, Repr

/-- The layout in force (table of 4.1). The tile holds tile[r][c] at 16r + c. -/
structure Layout where
  increment : Nat
  invert : Bool
  haltPolicy : Bool
  falling : Bool
  lockout : Nat
  widths : Vector Nat 8
  tile : Vector Byte 256
  heads : Vector (Option HeadEntry) 16
  deriving DecidableEq, Repr

/-! ## Nozzle Map Store -/

/-- A STAGED set with its waiting count (chapter 5). -/
structure StagedSet where
  set : List Nat
  waiting : Nat
  deriving DecidableEq, Repr

/-- A line pinned by an ownership hold, with the held set its band used (R96). -/
structure Pin where
  band : Nat
  line : Nat
  set : List Nat
  deriving DecidableEq, Repr

/-- An ownership hold: the sets before the edit, and the pinned lines (R96). -/
structure Hold where
  active : List Nat
  staged : Option (List Nat)
  pins : List Pin
  deriving DecidableEq, Repr

/-- One head's nozzle map (table of chapter 5). -/
structure NozzleMap where
  active : List Nat
  staged : Option StagedSet
  hold : Option Hold
  deriving DecidableEq, Repr

/-! ## Channels and composition -/

/-- A line of a channel's sequence, named by its band and band line. -/
structure LineRef where
  band : Nat
  line : Nat
  deriving DecidableEq, Repr

/-- A composed line (R123). -/
structure ComposedLine where
  ref : LineRef
  pageLine : Nat
  levels : List (BitVec 2)
  dataFault : Bool
  lost : Nat
  deriving DecidableEq, Repr

/-- The row slot (R134). -/
inductive RowSlot where
  | empty
  | transit (ref : LineRef)
  | shipped (ref : LineRef)
  deriving DecidableEq, Repr

/-- A live composition: the line and the transfer that fetches it (R102). -/
structure LiveComposition where
  ref : LineRef
  xfer : Nat
  deriving DecidableEq, Repr

/-- One channel (tables of R130 and chapter 6). The deferred line, when there is one, is the next-to-fire
line, so it is a mark. `pulseEnd` is the tick at which the strobe pulse in progress ends. -/
structure Channel where
  next : Option LineRef
  deferred : Bool
  queue : List ComposedLine
  slot : RowSlot
  shipRequest : Bool
  pulseEnd : Option Nat
  lastFire : Option Nat
  compose : Option LineRef
  live : Option LiveComposition
  deriving DecidableEq, Repr

/-! ## Head links -/

/-- The service states (R158). -/
inductive Service where
  | absent | outOfService | configuring | inService | parked | returning
  deriving DecidableEq, Repr

/-- The four kinds of link request (R159). -/
inductive RequestKind where
  | config | query | lineA | lineB
  deriving DecidableEq, Repr

/-- A request in a link queue, with the tick it joined (R160). -/
structure LinkRequest where
  kind : RequestKind
  joined : Nat
  deriving DecidableEq, Repr

/-- The two nozzle rows of a head. -/
inductive Row where
  | a | b
  deriving DecidableEq, Repr

/-- What a frame carries (10.7): a composed line of a row, parameter entries (ID, VALUE), or nothing. -/
inductive FrameBody where
  | line (row : Row) (ref : LineRef) (levels : List (BitVec 2))
  | config (entries : List (Byte × Byte))
  | query
  deriving DecidableEq, Repr

/-- A frame in flight (R158). `again` marks a resend or repeat; `forConfig` a configuration's frame; `stale`
one that a layout application overtook (R79). -/
structure Frame where
  body : FrameBody
  lanes : Nat
  begun : Nat
  withdrawn : Bool
  again : Bool
  forConfig : Bool
  stale : Bool
  deriving DecidableEq, Repr

/-- The link states (R161), each with the tick it counts from or to. -/
inductive LinkState where
  | idle
  | sending (ends : Nat)
  | answerWait (since : Nat)
  | resetting (ends : Nat)
  deriving DecidableEq, Repr

/-- One parameter of the shadow (R171). -/
structure ShadowParam where
  value : Byte
  confirmed : Bool
  deriving DecidableEq, Repr

/-- One Head Link Controller (table of R158). `again` is a frame that an outcome called to be sent again and
that has not begun (R160); `config` is the configuration in progress with its repeat-used mark; `lane` is what
the head has sent on its return lane, oldest first: the lane is high where a bit of these is 1, and else held low
(R197). -/
structure HeadLink where
  service : Service
  returnBand : Option Nat
  ready : Bool
  timer : Option Nat
  queue : List LinkRequest
  link : LinkState
  frame : Option Frame
  again : Option Frame
  config : Option Bool
  lane : List LaneReturn
  shadow : Vector ShadowParam 5
  deriving DecidableEq, Repr

/-! ## Memory Port -/

/-- A read tag: free, held by a request (its transfer, its index there, its address and length, the bytes
arrived, the tick of issue), or held on after a timeout (R39, R40). -/
inductive TagState where
  | free
  | request (xfer index : Nat) (addr : Addr) (len : Nat) (got : List Byte) (issued : Nat)
  | hold (ends : Nat)
  deriving DecidableEq, Repr

/-- A read transfer whose source still waits for it (R39). `fetch` names the channel and line of a line
fetch; none is the List Reader's. A discarded transfer is no longer listed. -/
structure Transfer where
  id : Nat
  fetch : Option (ChanId × LineRef)
  todo : List (Addr × Nat)
  nextIndex : Nat
  inFlight : Nat
  chunks : List (Nat × List Byte)
  failed : Bool
  deriving DecidableEq, Repr

/-- A write-back unit (R37): its 32-bit writes in order, and its record's NOTIFY. -/
structure WriteUnit where
  writes : List (Addr × Word32)
  notify : Bool
  deriving DecidableEq, Repr

/-- A unit a write of which could not be issued, and how much of the outbox was posted before it: its writes that
had gone out stand there, since the port issues writes in the order it receives them (R38, R41). -/
structure FailedUnit where
  unit : WriteUnit
  place : Nat
  deriving DecidableEq, Repr

/-- What the part has posted on the PCIe link: a memory write or an interrupt message (R41, R191). -/
inductive Posted where
  | write (addr : Addr) (bytes : List Byte)
  | interrupt
  deriving DecidableEq, Repr

/-- The Memory Port (2.8) with the grant holder (chapter 6). `failed` holds the units a write of which could
not be issued and whose failure is not yet reported; `outbox` records what was posted, oldest first. -/
structure MemoryPort where
  tags : Vector TagState 16
  transfers : List Transfer
  nextXfer : Nat
  grant : Option Nat
  linkUp : Bool
  failed : List FailedUnit
  outbox : List Posted
  deriving DecidableEq, Repr

/-! ## Engine Control -/

inductive EngineState where
  | stopped | running | suspended | draining | halted | aborting
  deriving DecidableEq, Repr

inductive HaltCause where
  | none | recordRead | layout | noLayout | starved | writeback
  deriving DecidableEq, Repr

/-- Engine Control (table of chapter 9). `capture` is the fresh high-word capture of R193; `readData` is the
word the last register read was answered with. -/
structure EngineControl where
  engine : EngineState
  cause : HaltCause
  events : BitVec 9
  enables : BitVec 9
  irq : Bool
  capture : Option Word32
  readData : Word32
  deriving DecidableEq, Repr

/-! ## The whole part -/

/-- The state of the 4816 and the queue of the commands that wait. `tick` is the count of the reference clock
since chip reset (R130). -/
structure State where
  pending : List Instr
  tick : Nat
  posn : PositionUnit
  reader : Reader
  win : Window
  layout : Option Layout
  maps : Vector NozzleMap 16
  chans : Vector Channel 32
  heads : Vector HeadLink 16
  port : MemoryPort
  ctl : EngineControl
  deriving DecidableEq, Repr

/-- Why a command stops with a fault. No rule of the manual stops the part with a fault: every event has a
stated effect in every state, or none. So the type has no constructor, and no command faults (safe). -/
inductive Fault where
  deriving DecidableEq, Repr

/-- Why a command is refused. -/
inductive Refusal where
  /-- A command that has no meaning yet, by its row's mnemonic; raised by `exec`'s arm alone (safe). Every
  row of this model has its meaning, so no arm raises it. -/
  | notModelled (mnemonic : String)
  deriving DecidableEq, Repr

/-- An idle channel that has fired nothing (R130, chip reset). -/
def Channel.reset : Channel :=
  { next := none, deferred := false, queue := [], slot := .empty, shipRequest := false, pulseEnd := none,
    lastFire := none, compose := none, live := none }

/-- A head link after chip reset: ABSENT, LINK_RESET asserted, nothing confirmed (R158). -/
def HeadLink.reset : HeadLink :=
  { service := .absent, returnBand := none, ready := false, timer := none, queue := [],
    link := .resetting Config.linkResetTicks, frame := none, again := none, config := none, lane := [],
    shadow := Vector.replicate 5 { value := 0, confirmed := false } }

/-- The page state after chip reset, ENGINE_RESET, START and the end of an abort, over an empty window (R44). -/
def Window.reset : Window :=
  { bands := [], pages := [], openPage := none, prevPage := none, firstPage := true, unbound := [],
    nextBand := 0, nextPage := 0 }

/-- The machine right after chip reset, with empty command queue. The decoder state and the product level
are resampled from the inputs at reset; here both inputs and the sensor are low (log entry 3). -/
def State.reset : State :=
  { pending := []
    tick := 0
    posn := { encA := false, encB := false, pos := { line := 0, frac := 0 }, productLevel := false,
              lockoutRef := none, productQueue := [] }
    reader := { listHead := 0, addr := 0, cond := .reading, pokePending := false, work := .idle }
    win := Window.reset
    layout := none
    maps := Vector.replicate 16 { active := [], staged := none, hold := none }
    chans := Vector.replicate 32 Channel.reset
    heads := Vector.replicate 16 HeadLink.reset
    port := { tags := Vector.replicate 16 .free, transfers := [], nextXfer := 0, grant := none, linkUp := true,
              failed := [], outbox := [] }
    ctl := { engine := .stopped, cause := .none, events := 0, enables := 0, irq := false, capture := none,
             readData := 0 } }

/-! Setters, one per part of the state. -/

def State.withPending (s : State) (x : List Instr) : State := { s with pending := x }
def State.withTick (s : State) (x : Nat) : State := { s with tick := x }
def State.withPosn (s : State) (x : PositionUnit) : State := { s with posn := x }
def State.withReader (s : State) (x : Reader) : State := { s with reader := x }
def State.withWin (s : State) (x : Window) : State := { s with win := x }
def State.withLayout (s : State) (x : Option Layout) : State := { s with layout := x }
def State.withMaps (s : State) (x : Vector NozzleMap 16) : State := { s with maps := x }
def State.withChans (s : State) (x : Vector Channel 32) : State := { s with chans := x }
def State.withHeads (s : State) (x : Vector HeadLink 16) : State := { s with heads := x }
def State.withPort (s : State) (x : MemoryPort) : State := { s with port := x }
def State.withCtl (s : State) (x : EngineControl) : State := { s with ctl := x }

end Sys2Proof.Machine
end

