-- ==== Sys2Proof/Machine/Operands.lean ====
section
/-! DEFINITION. Operand forms: byte order, addresses, the web position's arithmetic, the fields of records and
of register writes, link frames and acknowledgements (chapters 1 and 10). -/

namespace Sys2Proof.Machine

/-! ## Bytes (R194) -/

/-- A little-endian field as a number: the byte at the lowest address is the least significant (R194). -/
def leNat : List Byte → Nat
  | [] => 0
  | b :: bs => b.toNat + 256 * leNat bs

/-- The `n` bytes of a number, least significant first (R194). -/
def leBytes : Nat → Nat → List Byte
  | 0, _ => []
  | n + 1, v => BitVec.ofNat 8 v :: leBytes n (v / 256)

/-- The field of `len` bytes at offset `off` of a structure. -/
def field (bs : List Byte) (off len : Nat) : Nat := leNat ((bs.drop off).take len)

/-- A record address or NEXT value as the part takes it: the three low bits as zero, so that a value below 8
is 0 (R21). -/
def recordAddr (a : Addr) : Addr := a &&& ~~~7#64

/-- A byte address `n` bytes on, modulo 2^64. -/
def addrPlus (a : Addr) (n : Nat) : Addr := a + BitVec.ofNat 64 n

/-! ## The web position (R4 to R7, R11, R17) -/

/-- P counted in 2^-24 line (R17). -/
def posNat (p : Position) : Nat := p.line.toNat * Config.fracUnit + p.frac.toNat

/-- The position of a count of 2^-24 line. -/
def posOfNat (n : Nat) : Position :=
  { line := BitVec.ofNat 32 (n / Config.fracUnit), frac := BitVec.ofNat 24 (n % Config.fracUnit) }

/-- A forward count: INC is added, and the largest value is held (R6). -/
def posForward (inc : Nat) (p : Position) : Position := posOfNat (min (posNat p + inc) (Config.positionTop - 1))

/-- A backward count: INC is taken, and 0 + 0 is held (R7). -/
def posBackward (inc : Nat) (p : Position) : Position := posOfNat (posNat p - inc)

/-- P truncated to eighth-bit lines, as a capture is (R11). -/
def captureOf (p : Position) : BitVec 40 := BitVec.ofNat 40 (p.line.toNat * 256 + p.frac.toNat / 65536)

/-- P has reached the target `t`, a count of 1/256 line, compared at full width. A target of 2^48 or more is
never reached (R15, R17). -/
def reached (p : Position) (t : Nat) : Bool := decide (t * 65536 ≤ posNat p)

/-- An anchor held in 48 bits (R46, R51). -/
def anchorOf (n : Nat) : BitVec 48 := BitVec.ofNat 48 (min n (Config.anchorTop - 1))

/-! ## The encoder decoder (R2, R3) -/

/-- The pair that follows in the forward column of R2's table. -/
def tableForward : Bool × Bool → Bool × Bool
  | (false, false) => (true, false)
  | (true, false) => (true, true)
  | (true, true) => (false, true)
  | (false, true) => (false, false)

/-- The pair that follows in the backward column of R2's table. -/
def tableBackward : Bool × Bool → Bool × Bool
  | (false, false) => (false, true)
  | (true, false) => (false, false)
  | (true, true) => (true, false)
  | (false, true) => (true, true)

/-! ## Register accesses (R193) -/

/-- The bits of the bytes whose enables are set. -/
def byteMask (bytes : BitVec 4) : Word32 :=
  (if bytes.getLsbD 0 then 0x000000FF#32 else 0) ||| (if bytes.getLsbD 1 then 0x0000FF00#32 else 0) |||
  (if bytes.getLsbD 2 then 0x00FF0000#32 else 0) ||| (if bytes.getLsbD 3 then 0xFF000000#32 else 0)

/-- The word an access of some bytes writes or returns: the bytes not accessed are 0 (R193). -/
def accessed (v : Word32) (bytes : BitVec 4) : Word32 := v &&& byteMask bytes

/-- The five commands of ENGINE_CONTROL (R198). -/
inductive HostCommand where
  | start | stop | abort | engineReset | poke
  deriving DecidableEq, Repr

/-- The command that bits 7:0 of a write to ENGINE_CONTROL name (R198). -/
def commandCode (v : Word32) : Option HostCommand :=
  match (v.extractLsb' 0 8).toNat with
  | 1 => some .start
  | 2 => some .stop
  | 3 => some .abort
  | 4 => some .engineReset
  | 5 => some .poke
  | _ => none

/-! ## Records (10.2 to 10.5) -/

/-- The record type a TYPE value names (R21). -/
def recordType (t : Nat) : Option RecordType :=
  match t with
  | 1 => some .band
  | 2 => some .edit
  | 3 => some .layout
  | _ => none

/-- TYPE of a known record, as read and as written back. -/
def typeCode : RecordType → Nat
  | .band => 1
  | .edit => 2
  | .layout => 3

/-- Bytes of the fixed part of a body, after the 16-byte header (10.3 to 10.5). -/
def fixedBytes : RecordType → Nat
  | .band => 40
  | .edit => 4
  | .layout => 16

/-- The set bits of PLANES in ascending plane order. -/
def planesOf (m : BitVec 8) : List PlaneId := (List.finRange 8).filter fun p => m.getLsbD p.val

/-- Bytes of the list that follows the fixed part: 16 for each plane of a band, 2 for each index of an edit,
whose COUNT is taken as 64 at most (R26). -/
def listBytes (t : RecordType) (fixed : List Byte) : Nat :=
  match t with
  | .band => 16 * (planesOf (BitVec.ofNat 8 (field fixed 2 1))).length
  | .edit => 2 * min (field fixed 1 1) Config.editListMax
  | .layout => 0

/-- The plane entries of a band, one for each plane listed (10.3). -/
def planeEntries : List PlaneId → List Byte → List PlaneSource
  | [], _ => []
  | p :: ps, bs =>
    { plane := p, base := BitVec.ofNat 64 (field bs 0 8), stride := BitVec.ofNat 32 (field bs 8 4),
      first := BitVec.ofNat 16 (field bs 12 2), tile := BitVec.ofNat 16 (field bs 14 2) } ::
    planeEntries ps (bs.drop 16)

/-- The indices of an edit's list, 16 bits each (10.4). -/
def editIndices : Nat → List Byte → List Nat
  | 0, _ => []
  | n + 1, bs => field bs 0 2 :: editIndices n (bs.drop 2)

/-- OP in bits 2:1 of an edit's FLAGS (10.4). -/
def editOp (v : Nat) : EditOp :=
  match v with
  | 0 => .add
  | 1 => .remove
  | 2 => .replace
  | _ => .noOperation

/-- A record read whole, from its fixed part and its list. -/
def recordBody (t : RecordType) (fixed list : List Byte) : RecordBody :=
  match t with
  | .band =>
    let planes := BitVec.ofNat 8 (field fixed 2 1)
    let flags := BitVec.ofNat 8 (field fixed 3 1)
    .band { lines := BitVec.ofNat 16 (field fixed 0 2), planes := planes, pageStart := flags.getLsbD 0,
            pageEnd := flags.getLsbD 1, continuous := flags.getLsbD 2, notify := flags.getLsbD 7,
            offset := BitVec.ofNat 32 (field fixed 4 4), sources := planeEntries (planesOf planes) list }
  | .edit =>
    let flags := BitVec.ofNat 8 (field fixed 2 1)
    .edit { head := Fin.ofNat 16 (field fixed 0 1), immediate := flags.getLsbD 0,
            op := editOp ((flags.extractLsb' 1 2).toNat), notify := flags.getLsbD 7,
            indices := editIndices (min (field fixed 1 1) Config.editListMax) list }
  | .layout =>
    .layout { block := BitVec.ofNat 64 (field fixed 0 8),
              notify := (BitVec.ofNat 8 (field fixed 8 1)).getLsbD 7 }

/-! ## Source lines (R106 to R108) -/

/-- The source line of band line `k` (R106). -/
def sourceLine (e : PlaneSource) (k : Nat) : Nat :=
  if e.tile = 0 then e.first.toNat + k else (e.first.toNat + k) % e.tile.toNat

/-- The address of the first byte of a line fetch for a head whose first column is `col` (R107). -/
def fetchAddr (e : PlaneSource) (k col : Nat) : Addr :=
  BitVec.ofNat 64 (e.base.toNat + sourceLine e k * e.stride.toNat + col / 4)

/-- The length in bytes of a line fetch for columns `col` to `col + n - 1` (R107). -/
def fetchLen (col n : Nat) : Nat := (col + n - 1) / 4 - col / 4 + 1

/-- The level of column `x` in the fetched bytes of a head whose first column is `col` (R108). -/
def sourceLevel (bytes : List Byte) (col x : Nat) : Nat :=
  (((bytes.getD (x / 4 - col / 4) 0).extractLsb' (2 * (x % 4)) 2).toNat)

/-! ## Link frames and acknowledgements (R153 to R157, R196, R197) -/

/-- `n` bits of a number, least significant first (R196). -/
def bitsOf : Nat → Nat → List Bool
  | 0, _ => []
  | n + 1, v => (v % 2 == 1) :: bitsOf n (v / 2)

/-- One step of the CRC register (R196). -/
def crcStep (crc : BitVec 16) (bit : Bool) : BitVec 16 :=
  if crc.getLsbD 15 == bit then crc <<< 1 else (crc <<< 1) ^^^ 0x1021#16

/-- The CRC register after all bits, from 0xFFFF (R196). -/
def crc16 (bits : List Bool) : BitVec 16 := bits.foldl crcStep 0xFFFF#16

/-- The CRC as sent: bit 15 first (R196). -/
def crcBits (crc : BitVec 16) : List Bool := (bitsOf 16 crc.toNat).reverse

/-- CHECK of a parameter entry (R155). -/
def entryCheck (e : Byte × Byte) : Byte := e.1 ^^^ e.2 ^^^ 0x5A#8

/-- The header and data bits of a frame, before any CRC (10.7). -/
def frameData : FrameBody → List Bool
  | .line row _ levels =>
    bitsOf 4 (match row with | .a => 1 | .b => 2) ++ bitsOf 7 (levels.length / 32) ++ bitsOf 5 0 ++
    levels.flatMap fun l => bitsOf 2 l.toNat
  | .config es =>
    bitsOf 4 3 ++ bitsOf 3 es.length ++ bitsOf 9 0 ++
    es.flatMap fun e => bitsOf 8 e.1.toNat ++ bitsOf 8 e.2.toNat ++ bitsOf 8 (entryCheck e).toNat
  | .query => bitsOf 4 4 ++ bitsOf 12 0

/-- The bits of a frame in the order of sending; LINE and QUERY frames end in the CRC (10.7, R196). -/
def frameBits (b : FrameBody) : List Bool :=
  match b with
  | .line _ _ _ | .query => frameData b ++ crcBits (crc16 (frameData b))
  | .config _ => frameData b

/-- The number of bits of a frame (table of R153). -/
def frameLength : FrameBody → Nat
  | .line _ _ levels => 32 + 2 * levels.length
  | .config es => 16 + 24 * es.length
  | .query => 32

/-- How long a frame lasts: one bit per tick on each lane it uses (R153). -/
def frameTicks (b : FrameBody) (lanes : Nat) : Nat := (frameLength b + lanes - 1) / lanes

/-- The level of lane `lane` while a frame is being sent: bit i goes on lane i mod ℓ in tick ⌊i/ℓ⌋, and the
lanes at and above ℓ are low (R153). -/
def laneLevel (f : Frame) (lane now : Nat) : Bool :=
  if lane < f.lanes then (frameBits f.body).getD ((now - f.begun) * f.lanes + lane) false else false

/-- The statuses of an acknowledgement, bits 2:1 (R197), and the outcome TIMEOUT of R157. -/
inductive FrameOutcome where
  | ready | checkError | notReady | overtemp | timeout
  deriving DecidableEq, Repr

/-- The status an acknowledgement carries (R197). -/
def ackStatus (a : Byte) : FrameOutcome :=
  match (a.extractLsb' 1 2).toNat with
  | 0 => .ready
  | 1 => .checkError
  | 2 => .notReady
  | _ => .overtemp

/-- The count an acknowledgement carries, bits 5:3 (R197). -/
def ackCount (a : Byte) : Nat := (a.extractLsb' 3 3).toNat

/-! ## Channels and heads -/

/-- The head of a channel. -/
def headOf (c : ChanId) : HeadId := ⟨c.val / 2, by omega⟩

/-- The row of a channel: even numbers are row A. -/
def rowOf (c : ChanId) : Row := if c.val % 2 = 0 then .a else .b

/-- The channel of a row of a head. -/
def chanOf (h : HeadId) (r : Row) : ChanId :=
  match r with
  | .a => ⟨2 * h.val, by omega⟩
  | .b => ⟨2 * h.val + 1, by omega⟩

def allChans : List ChanId := List.finRange 32
def allHeads : List HeadId := List.finRange 16
def allTags : List TagId := List.finRange 16

/-- The ship request kind of a channel (R159). -/
def shipKind (c : ChanId) : RequestKind :=
  match rowOf c with
  | .a => .lineA
  | .b => .lineB

end Sys2Proof.Machine
end

