-- ==== Sys2Proof/Machine/Flags.lean ====
section
/-! DEFINITION. Every flag the part computes: the nine event flags and the interrupt condition (R190, R191),
the RESULT word and its flag bytes (R195, R60), the codes of ENGINE_STATUS and the pairs of HEAD_STATE. -/

namespace Sys2Proof.Machine

/-- The nine events, in the order of their bits (10.8). -/
inductive Event where
  | recordClosed | readerSuspended | engineHalted | stoppedEvent | productMissed | headParked | encoderError
  | commandRejected | writebackFailed
  deriving DecidableEq, Repr

/-- The bit of an event in EVENTS and EVENT_ENABLE (10.8). -/
def eventBit : Event → Nat
  | .recordClosed => 0
  | .readerSuspended => 1
  | .engineHalted => 2
  | .stoppedEvent => 3
  | .productMissed => 4
  | .headParked => 5
  | .encoderError => 6
  | .commandRejected => 7
  | .writebackFailed => 8

/-- The word with one flag alone. -/
def eventMask (e : Event) : BitVec 9 := 1#9 <<< eventBit e

/-- The interrupt output: some flag is both set and enabled (R191). -/
def irqOf (events enables : BitVec 9) : Bool := (events &&& enables) != 0#9

/-- The result codes (R195). -/
inductive ResultCode where
  | done | late | aborted | noPage | unknownType | rejected
  deriving DecidableEq, Repr

def resultCode : ResultCode → Nat
  | .done => 1
  | .late => 2
  | .aborted => 3
  | .noPage => 4
  | .unknownType => 5
  | .rejected => 6

/-- The RESULT word: code in bits 3:0, flag byte in bits 15:8, park mask in bits 31:16 (R195). -/
def resultWord (code : ResultCode) (flags : BitVec 8) (park : BitVec 16) : Word32 :=
  park ++ flags ++ BitVec.ofNat 8 (resultCode code)

/-- The control word as written back: OWN clear, TYPE as read, reserved parts zero (R37). -/
def controlWord (type : Nat) : Word32 := BitVec.ofNat 32 (256 * (type % 256))

/-- A byte from its eight bits, bit 0 first. -/
def flagByte (b0 b1 b2 b3 b4 b5 b6 b7 : Bool) : BitVec 8 :=
  BitVec.ofBool b7 ++ BitVec.ofBool b6 ++ BitVec.ofBool b5 ++ BitVec.ofBool b4 ++ BitVec.ofBool b3 ++
  BitVec.ofBool b2 ++ BitVec.ofBool b1 ++ BitVec.ofBool b0

/-- A closing band's flag byte (R60, R195). -/
def bandFlags (b : BandEntry) : BitVec 8 :=
  let dataFault := decide (b.dataFaults ≠ 0)
  let starved := decide (b.starved ≠ 0)
  let dropped := decide (b.dropped ≠ 0)
  let lost := decide (b.lost ≠ 0)
  flagByte b.slipped b.overlap dataFault starved dropped b.parkedSeen lost
    (dataFault || starved || dropped || b.parkedSeen || lost)

/-- An edit's flag byte (R195). -/
def editFlags (indexIgnored capacity : Bool) : BitVec 8 :=
  flagByte indexIgnored capacity false false false false false false

/-- The codes of ENGINE_STATUS (10.8). -/
def engineCode : EngineState → Nat
  | .stopped => 0
  | .running => 1
  | .suspended => 2
  | .draining => 3
  | .halted => 4
  | .aborting => 5

def causeCode : HaltCause → Nat
  | .none => 0
  | .recordRead => 1
  | .layout => 2
  | .noLayout => 3
  | .starved => 4
  | .writeback => 5

def conditionCode : ReaderCondition → Nat
  | .reading => 0
  | .waitingWindow => 1
  | .waitingEdit => 2
  | .waitingDrain => 3
  | .configuringLayout => 4
  | .suspendedOwner => 5
  | .suspendedEnd => 6

/-- The HEAD_STATE pair of a service state (R176). -/
def servicePair : Service → Nat
  | .absent => 0
  | .outOfService => 0
  | .inService => 1
  | .configuring => 2
  | .returning => 2
  | .parked => 3

end Sys2Proof.Machine
end

