-- ==== Sys2Proof/Machine/Layout.lean ====
section
/-! DEFINITION. The Layout Store (chapter 4): reading a layout block, judging it, clamping it, and the facts
derived from the layout in force (R14, R73 to R75). -/

namespace Sys2Proof.Machine

/-- A head entry as the block holds it, PLANE not 0xFF (10.5). -/
structure RawHead where
  plane : Nat
  inService : Bool
  lanes : Nat
  waveform : Nat
  firstColumn : Nat
  nozzles : Nat
  period : Nat
  headOffset : Nat
  rowOffset : Nat
  trim : Int
  level1 : Nat
  level2 : Nat
  level3 : Nat
  deriving DecidableEq, Repr

/-- A layout block as read (10.5). -/
structure LayoutBlock where
  increment : Nat
  options : BitVec 8
  lockout : Nat
  widths : List Nat
  tile : List Byte
  heads : List (Option RawHead)
  deriving DecidableEq, Repr

/-- A head entry of 32 bytes; none when PLANE is 0xFF, and the rest is then not read (R69). -/
def rawHead (bs : List Byte) : Option RawHead :=
  if field bs 0 1 = 255 then none
  else some
    { plane := field bs 0 1, inService := (BitVec.ofNat 8 (field bs 1 1)).getLsbD 0, lanes := field bs 2 1,
      waveform := field bs 3 1, firstColumn := field bs 4 2, nozzles := field bs 6 2, period := field bs 8 4,
      headOffset := field bs 12 4, rowOffset := field bs 16 4, trim := (BitVec.ofNat 16 (field bs 20 2)).toInt,
      level1 := field bs 22 1, level2 := field bs 23 1, level3 := field bs 24 1 }

/-- The 832-byte block (10.5). -/
def layoutBlock (bs : List Byte) : LayoutBlock :=
  { increment := field bs 0 4, options := BitVec.ofNat 8 (field bs 4 1), lockout := field bs 8 4,
    widths := (List.range 8).map fun p => field bs (16 + 4 * p) 4,
    tile := (bs.drop 64).take 256,
    heads := (List.range 16).map fun h => rawHead ((bs.drop (320 + 32 * h)).take 32) }

/-- The present heads of a block with their numbers. -/
def presentHeads (b : LayoutBlock) : List (Nat × RawHead) :=
  b.heads.zipIdx.filterMap fun x => x.1.map fun r => (x.2, r)

/-- The width of the plane a head names; 0 when it names none (R69). -/
def planeWidth (b : LayoutBlock) (r : RawHead) : Nat := if r.plane < 8 then b.widths.getD r.plane 0 else 0

/-- The end of a head's span, one past its last column. -/
def RawHead.spanEnd (r : RawHead) : Nat := r.firstColumn + r.nozzles

/-- The span of `x` lies within the span of `y` (check 5 of R70). -/
def spanWithin (x y : RawHead) : Bool := decide (y.firstColumn ≤ x.firstColumn ∧ x.spanEnd ≤ y.spanEnd)

/-- Some column lies in all three spans (check 6): the last first column lies before the first end. -/
def shareColumn (x y z : RawHead) : Bool :=
  decide (max x.firstColumn (max y.firstColumn z.firstColumn) < min x.spanEnd (min y.spanEnd z.spanEnd))

/-- `y` is the neighbour after `x` in FIRST_COLUMN order among `hs` (check 7). -/
def neighbourAfter (hs : List (Nat × RawHead)) (x y : RawHead) : Bool :=
  decide (x.firstColumn < y.firstColumn) &&
  hs.all fun z => !(z.2.plane == x.plane && decide (x.firstColumn < z.2.firstColumn) &&
    decide (z.2.firstColumn < y.firstColumn))

/-- The columns that neighbours share, `x` the left one. -/
def sharedColumns (x y : RawHead) : Nat := min x.spanEnd y.spanEnd - max x.firstColumn y.firstColumn

/-- Whether check `reason` of R70 fails. -/
def checkFails (b : LayoutBlock) (reason : Nat) : Bool :=
  let hs := presentHeads b
  let pairs := hs.flatMap fun x => (hs.filter fun y => decide (x.1 ≠ y.1) && x.2.plane == y.2.plane).map fun y => (x, y)
  match reason with
  | 1 => b.widths.any fun w => decide (65536 < w)
  | 2 => hs.any fun x => decide (planeWidth b x.2 = 0)
  | 3 => hs.any fun x => decide (x.2.nozzles < 256 ∨ 4096 < x.2.nozzles ∨ x.2.nozzles % 64 ≠ 0)
  | 4 => hs.any fun x => decide (planeWidth b x.2 < x.2.spanEnd)
  | 5 => pairs.any fun xy => spanWithin xy.1.2 xy.2.2
  | 6 => pairs.any fun xy => hs.any fun z =>
      decide (z.1 ≠ xy.1.1) && decide (z.1 ≠ xy.2.1) && z.2.plane == xy.1.2.plane && shareColumn xy.1.2 xy.2.2 z.2
  | 7 => pairs.any fun xy => neighbourAfter hs xy.1.2 xy.2.2 && decide (64 < sharedColumns xy.1.2 xy.2.2)
  | _ => false

/-- The reason number of the first check that fails, in the order of R70's table; none accepts the block. -/
def judge (b : LayoutBlock) : Option Nat := [1, 2, 3, 4, 5, 6, 7].find? (checkFails b)

/-- A value held within a range. -/
def clampNat (lo hi v : Nat) : Nat := min hi (max lo v)

/-- TRIM within −64 to 63 (R72). -/
def clampTrim (t : Int) : Int := min 63 (max (-64) t)

/-- LANES: any value but 1, 2 and 4 is taken as 1 (R72). -/
def clampLanes (l : Nat) : Nat := if l = 1 ∨ l = 2 ∨ l = 4 then l else 1

/-- A present head's entry with its fields taken and clamped (R69, R72). -/
def clampHead (r : RawHead) : HeadEntry :=
  { plane := Fin.ofNat 8 r.plane, inService := r.inService, lanes := clampLanes r.lanes,
    waveform := BitVec.ofNat 4 r.waveform, firstColumn := r.firstColumn, nozzles := r.nozzles,
    period := clampNat 500 65535 r.period, headOffset := r.headOffset, rowOffset := r.rowOffset,
    trim := clampTrim r.trim, level1 := BitVec.ofNat 3 r.level1, level2 := BitVec.ofNat 3 r.level2,
    level3 := BitVec.ofNat 3 r.level3 }

/-- A vector given by its elements. -/
def tabulate {α : Type} (n : Nat) (f : Fin n → α) : Vector α n := ⟨⟨(List.finRange n).map f⟩, by simp⟩

/-- The layout an accepted block gives (R72, R76). -/
def layoutOf (b : LayoutBlock) : Layout :=
  { increment := clampNat 1 Config.fracUnit b.increment, invert := b.options.getLsbD 0,
    haltPolicy := b.options.getLsbD 1, falling := b.options.getLsbD 2, lockout := b.lockout,
    widths := tabulate 8 fun p => b.widths.getD p.val 0,
    tile := tabulate 256 fun i => b.tile.getD i.val 0,
    heads := tabulate 16 fun h => (b.heads.getD h.val none).map clampHead }

/-- INC_CLAMPED, PERIOD_CLAMPED, LANES_CLAMPED, TRIM_CLAMPED (R72) and MAP_TRIMMED (R78). -/
def layoutFlags (b : LayoutBlock) (trimmed : Bool) : BitVec 8 :=
  let hs := presentHeads b
  flagByte (decide (clampNat 1 Config.fracUnit b.increment ≠ b.increment))
    (hs.any fun x => decide (clampNat 500 65535 x.2.period ≠ x.2.period))
    (hs.any fun x => decide (clampLanes x.2.lanes ≠ x.2.lanes))
    (hs.any fun x => decide (clampTrim x.2.trim ≠ x.2.trim))
    trimmed false false false

/-! ## Derived facts -/

/-- The entry of a head: none when it is absent or no layout is loaded. -/
def entryOf (l : Option Layout) (h : HeadId) : Option HeadEntry := l.bind fun l => l.heads[h]

/-- The entry of a channel's head; none when the channel is not in the channel list (R73). -/
def chanEntry (l : Option Layout) (c : ChanId) : Option HeadEntry := entryOf l (headOf c)

/-- O_c, in eighth-bit lines, for a row of a head entry (R14). -/
def rowOffsetOf (e : HeadEntry) (r : Row) : Nat :=
  match r with
  | .a => e.headOffset
  | .b => min (e.headOffset + e.rowOffset) 4294967295

/-- O_c of a channel in the channel list (R14). -/
def chanOffset (l : Option Layout) (c : ChanId) : Option Nat := (chanEntry l c).map fun e => rowOffsetOf e (rowOf c)

/-- O_min, 0 when there is no channel (R75). -/
def oMin (l : Option Layout) : Nat :=
  match allChans.filterMap (chanOffset l) with
  | [] => 0
  | o :: os => os.foldl min o

/-- The effective mask of a band: the bits of PLANES whose plane has a width (R43). -/
def effectiveMask (l : Option Layout) (planes : BitVec 8) : BitVec 8 :=
  match l with
  | none => 0
  | some l => (List.finRange 8).foldl
      (fun m p => if planes.getLsbD p.val && decide (l.widths[p] ≠ 0) then m ||| (1#8 <<< p.val) else m) 0#8

/-- Whether a channel prints a plane of the mask. -/
def chanPrints (l : Option Layout) (mask : BitVec 8) (c : ChanId) : Bool :=
  match chanEntry l c with
  | some e => mask.getLsbD e.plane.val
  | none => false

/-- K: the channels whose plane is in the mask (R43). -/
def channelCount (l : Option Layout) (mask : BitVec 8) : Nat := (allChans.filter (chanPrints l mask)).length

/-- The head before (`left`) or after `h` in its plane's FIRST_COLUMN order, with its entry (R74). -/
def partner (left : Bool) (l : Option Layout) (h : HeadId) : Option (HeadId × HeadEntry) :=
  match entryOf l h with
  | none => none
  | some e =>
    allHeads.foldl
      (fun best g =>
        match entryOf l g with
        | some eg =>
          if eg.plane = e.plane ∧ (if left then eg.firstColumn < e.firstColumn else e.firstColumn < eg.firstColumn) then
            match best with
            | some (_, eb) =>
              if (if left then eb.firstColumn < eg.firstColumn else eg.firstColumn < eb.firstColumn) then some (g, eg)
              else best
            | none => some (g, eg)
          else best
        | none => best)
      none

/-- The stitch partners of a head (R74). -/
def partners (l : Option Layout) (h : HeadId) : List HeadId :=
  ((partner true l h).toList ++ (partner false l h).toList).map Prod.fst

/-- The overlap width of a left head and its right partner (R74). -/
def overlapWidth (left right : HeadEntry) : Nat := left.firstColumn + left.nozzles - right.firstColumn

/-- The channels of a head that are in the channel list. -/
def headChans (l : Option Layout) (h : HeadId) : List ChanId :=
  match entryOf l h with
  | some _ => [chanOf h .a, chanOf h .b]
  | none => []

/-- The index limit of a head's sets (R85). -/
def nozzleLimit (l : Option Layout) (h : HeadId) : Nat :=
  match entryOf l h with
  | some e => e.nozzles
  | none => Config.absentNozzleLimit

/-- The value R155 takes from a head entry for parameter ID `i + 1`. -/
def paramValue (e : HeadEntry) (i : Fin 5) : Byte :=
  match i.val with
  | 0 => BitVec.ofNat 8 e.waveform.toNat
  | 1 => BitVec.ofInt 8 e.trim
  | 2 => BitVec.ofNat 8 e.level1.toNat
  | 3 => BitVec.ofNat 8 e.level2.toNat
  | _ => BitVec.ofNat 8 e.level3.toNat

end Sys2Proof.Machine
end

