-- ==== Sys2Proof/Machine/Nozzles.lean ====
section
/-! DEFINITION. The sets of the Nozzle Map Store and the three edit operations (5.1, 5.2). -/

namespace Sys2Proof.Machine

/-- A set after an operation, with the two flags it raised (R87). -/
structure EditResult where
  set : List Nat
  ignored : Bool
  capacity : Bool
  deriving DecidableEq, Repr

/-- An index in its ascending place. -/
def insertAscending (i : Nat) : List Nat → List Nat
  | [] => [i]
  | x :: xs => if i < x then i :: x :: xs else x :: insertAscending i xs

/-- ADD of one index (R88): at or above the limit it is ignored; already there it is passed over; else it is
inserted while the set holds fewer than 128. -/
def addIndex (limit : Nat) (r : EditResult) (i : Nat) : EditResult :=
  if limit ≤ i then { r with ignored := true }
  else if r.set.contains i then r
  else if r.set.length < Config.nozzleSetMax then { r with set := insertAscending i r.set }
  else { r with capacity := true }

/-- REMOVE of one index (R89). -/
def removeIndex (limit : Nat) (r : EditResult) (i : Nat) : EditResult :=
  if limit ≤ i then { r with ignored := true } else { r with set := r.set.filter fun x => decide (x ≠ i) }

/-- An operation applied to one target set (R87 to R89). -/
def applyEdit (op : EditOp) (limit : Nat) (indices : List Nat) (set : List Nat) : EditResult :=
  match op with
  | .add => indices.foldl (addIndex limit) { set := set, ignored := false, capacity := false }
  | .remove => indices.foldl (removeIndex limit) { set := set, ignored := false, capacity := false }
  | .replace => indices.foldl (addIndex limit) { set := [], ignored := false, capacity := false }
  | .noOperation => { set := set, ignored := !indices.isEmpty, capacity := false }

/-- Whether band `band` is one of the oldest `n` open bands (R86). -/
def amongOldest (bands : List BandEntry) (n band : Nat) : Bool := (bands.take n).any fun b => b.id == band

/-- The map version of a head for a band (R86). -/
def mapVersion (m : NozzleMap) (bands : List BandEntry) (band : Nat) : List Nat :=
  match m.staged with
  | some st => if amongOldest bands st.waiting band then m.active else st.set
  | none => m.active

/-- The set that decides ownership for a line: the held set where a hold pins the line (R115). -/
def ownershipVersion (m : NozzleMap) (bands : List BandEntry) (ref : LineRef) : List Nat :=
  match m.hold.bind fun h => h.pins.find? fun p => p.band == ref.band && p.line == ref.line with
  | some p => p.set
  | none => mapVersion m bands ref.band

end Sys2Proof.Machine
end

