-- ==== Sys2Proof/Machine/Compose.lean ====
section
/-! DEFINITION. Composing one line: Steps 1 to 6 (6.5), as functions of their inputs alone. -/

namespace Sys2Proof.Machine

/-- One side of a seam as the composition of a line reads it (R115): the head's entry, its ownership version
for the line, and whether it serves the band. -/
structure SeamHead where
  entry : HeadEntry
  dead : List Nat
  serves : Bool
  deriving DecidableEq, Repr

/-- The threshold θ of column j of an overlap of width `w` (R116). -/
def seamThreshold (w j : Nat) : Nat := 256 * (w - j) / (w + 1)

/-- The tile value for page line `n` and plane column `x` (R116). -/
def tileValue (tile : Vector Byte 256) (n x : Nat) : Nat := (tile[16 * (n % 16) + x % 16]'(by omega)).toNat

/-- Step 1: the left head owns overlap column `x` on page line `n` (R116). -/
def leftOwns (tile : Vector Byte 256) (n : Nat) (left right : HeadEntry) (x : Nat) : Bool :=
  decide (tileValue tile n x < seamThreshold (overlapWidth left right) (x - right.firstColumn))

/-- The nozzle of a head for column `x` is dead in a set. -/
def deadAt (s : SeamHead) (x : Nat) : Bool := s.dead.contains (x - s.entry.firstColumn)

/-- Step 3: the column passes from an owner whose nozzle is dead to the other head when its nozzle is alive
(R118). -/
def rescued (owner other : SeamHead) (x : Nat) : Bool := deadAt owner x && !deadAt other x

/-- Steps 1 to 3 for one overlap column: whether `self` owns it, `other` being its partner and `selfLeft`
saying which of the two is the left head (R116 to R118). -/
def ownsSeam (tile : Vector Byte 256) (n : Nat) (self other : SeamHead) (selfLeft : Bool) (x : Nat) : Bool :=
  if !other.serves then true
  else
    let selfFirst :=
      if selfLeft then leftOwns tile n self.entry other.entry x else !leftOwns tile n other.entry self.entry x
    if selfFirst then !rescued self other x else rescued other self x

/-- Whether a head owns column `x` of its span on page line `n`, given its partners (R115 to R118). -/
def ownsColumn (tile : Vector Byte 256) (n : Nat) (self : SeamHead) (left right : Option SeamHead) (x : Nat) : Bool :=
  match right with
  | some r =>
    if r.entry.firstColumn ≤ x then ownsSeam tile n self r true x
    else match left with
      | some l => if x < l.entry.firstColumn + l.entry.nozzles then ownsSeam tile n self l false x else true
      | none => true
  | none =>
    match left with
    | some l => if x < l.entry.firstColumn + l.entry.nozzles then ownsSeam tile n self l false x else true
    | none => true

/-- The levels of a head's nozzles in the course of Step 5, with the losses of each row (R122). -/
structure LineLevels where
  levels : List Nat
  lostA : Nat
  lostB : Nat
  deriving DecidableEq, Repr

/-- The level of a nozzle, 0 outside the head. -/
def levelAt (l : LineLevels) (i : Nat) : Nat := l.levels.getD i 0

/-- A loss credited to the row that holds nozzle `i` (R122). -/
def addLoss (l : LineLevels) (i loss : Nat) : LineLevels :=
  if i % 2 = 0 then { l with lostA := l.lostA + loss } else { l with lostB := l.lostB + loss }

/-- Nozzle `i` is a candidate: in range, alive and its column owned (R121). -/
def candidate (n : Nat) (dead : List Nat) (owned : List Bool) (i : Nat) : Bool :=
  decide (i < n) && !dead.contains i && owned.getD i false

/-- The neighbour that takes the level of dead nozzle `i`: the lower of two, the left one on equal levels
(R121). -/
def chosenNeighbour (dead : List Nat) (owned : List Bool) (l : LineLevels) (i : Nat) : Option Nat :=
  let n := l.levels.length
  let left := decide (0 < i) && candidate n dead owned (i - 1)
  let right := candidate n dead owned (i + 1)
  if left && right then (if levelAt l (i + 1) < levelAt l (i - 1) then some (i + 1) else some (i - 1))
  else if left then some (i - 1)
  else if right then some (i + 1)
  else none

/-- Step 5 for one dead nozzle (R121, R122). -/
def compensate (dead : List Nat) (owned : List Bool) (l : LineLevels) (i : Nat) : LineLevels :=
  let v := levelAt l i
  if owned.getD i false && decide (0 < v) then
    match chosenNeighbour dead owned l i with
    | some k =>
      let sum := levelAt l k + v
      addLoss { l with levels := (l.levels.set k (min 3 sum)).set i 0 } i (sum - 3)
    | none => addLoss { l with levels := l.levels.set i 0 } i v
  else l

/-- Steps 4 and 5 over the whole head: source levels of the owned columns, then the dead nozzles in ascending
order (R120 to R122). -/
def composeLevels (source : List Nat) (owned : List Bool) (dead : List Nat) : LineLevels :=
  let start : LineLevels :=
    { levels := (source.zip owned).map fun x => if x.2 then x.1 else 0, lostA := 0, lostB := 0 }
  ((List.range source.length).filter fun i => dead.contains i).foldl (compensate dead owned) start

/-- Step 6: the levels of a row, in row nozzle order (R123). -/
def rowLevels (r : Row) (levels : List Nat) : List (BitVec 2) :=
  (List.range (levels.length / 2)).map fun k =>
    BitVec.ofNat 2 (levels.getD (2 * k + (match r with | .a => 0 | .b => 1)) 0)

/-- The losses credited to a row (R122). -/
def rowLost (r : Row) (l : LineLevels) : Nat :=
  match r with
  | .a => l.lostA
  | .b => l.lostB

end Sys2Proof.Machine
end

