-- ==== Sys2Proof/Machine/Ops.lean ====
section
/-! DEFINITION. The shared operations of Engine Control and the Memory Port: accessors, raising an event,
the interrupt, halting, posting a write-back unit, and the read transfers with their tags (2.7, 2.8, 9.3, 9.7). -/

namespace Sys2Proof.Machine

/-! ## Accessors -/

def State.chan (s : State) (c : ChanId) : Channel := s.chans[c]
def State.setChan (s : State) (c : ChanId) (x : Channel) : State := s.withChans (s.chans.set c x)
def State.head (s : State) (h : HeadId) : HeadLink := s.heads[h]
def State.setHead (s : State) (h : HeadId) (x : HeadLink) : State := s.withHeads (s.heads.set h x)
def State.map (s : State) (h : HeadId) : NozzleMap := s.maps[h]
def State.setMap (s : State) (h : HeadId) (x : NozzleMap) : State := s.withMaps (s.maps.set h x)

/-- The engine states in which records close, pages bind, lines are fetched and channels work (R178). -/
def working (s : State) : Bool :=
  match s.ctl.engine with
  | .running | .suspended | .draining => true
  | .stopped | .halted | .aborting => false

/-- The engine states in which the reader reads (R23). -/
def reading (s : State) : Bool :=
  match s.ctl.engine with
  | .running | .suspended => true
  | .stopped | .draining | .halted | .aborting => false

/-- The clock stands at `t` or later: an event that falls at a tick has not come before it (log entry 1). -/
def advanceTo (t : Nat) (s : State) : State := s.withTick (max s.tick t)

/-! ## Events and the interrupt (R190, R191) -/

/-- New flags and enables: the interrupt output follows, and its rise posts one message, which is lost while
the PCIe link is down (R191). -/
def setEvents (events enables : BitVec 9) (s : State) : State :=
  let on := irqOf events enables
  let s1 := s.withCtl { s.ctl with events := events, enables := enables, irq := on }
  if on && !s.ctl.irq && s.port.linkUp then
    s1.withPort { s.port with outbox := s.port.outbox ++ [.interrupt] }
  else s1

/-- An event is raised: its flag is set whether or not it was set (R190). -/
def raise (e : Event) (s : State) : State := setEvents (s.ctl.events ||| eventMask e) s.ctl.enables s

/-! ## Write-back units (R37, R41) -/

/-- One 32-bit write as posted: two writes where it crosses a 4 KiB boundary (R41). -/
def postedWrite (a : Addr) (v : Word32) : List Posted :=
  let room := Config.pageBytes - a.toNat % Config.pageBytes
  let bytes := leBytes 4 v.toNat
  if 4 ≤ room then [.write a bytes] else [.write a (bytes.take room), .write (addrPlus a room) (bytes.drop room)]

/-- What a list of writes posts, in order (R41). -/
def postedWrites (ws : List (Addr × Word32)) : List Posted := ws.flatMap fun w => postedWrite w.1 w.2

/-- Writes posted in order. -/
def postWrites (ws : List (Addr × Word32)) (s : State) : State :=
  s.withPort { s.port with outbox := s.port.outbox ++ postedWrites ws }

/-- A unit is handed to the Memory Port. With the link up it is issued whole, in order, and RECORD_CLOSED
follows its control word where NOTIFY is set; with the link down its writes cannot be issued and it waits to be
reported (R37, R38, R41). -/
def handOver (u : WriteUnit) (s : State) : State :=
  if s.port.linkUp then
    let s1 := postWrites u.writes s
    if u.notify then raise .recordClosed s1 else s1
  else s.withPort { s.port with failed := s.port.failed ++ [{ unit := u, place := s.port.outbox.length }] }

/-- The unit of a record that carries RESULT and the control word alone (R71, R81, R98). -/
def resultUnit (addr : Addr) (type : Nat) (notify : Bool) (result : Word32) : WriteUnit :=
  { writes := [(addrPlus addr 4, result), (addr, controlWord type)], notify := notify }

/-! ## Read transfers (R39, R40) -/

/-- The requests of a read transfer: cut at 4 KiB boundaries and at 256 bytes (R39). The first argument
bounds the number of requests. -/
def cutRead : Nat → Addr → Nat → List (Addr × Nat)
  | 0, _, _ => []
  | n + 1, a, len =>
    if len = 0 then []
    else
      let m := min len (min Config.requestMax (Config.pageBytes - a.toNat % Config.pageBytes))
      (a, m) :: cutRead n (addrPlus a m) (len - m)

/-- Whether a tag is free. -/
def tagFree (p : MemoryPort) (t : TagId) : Bool := decide (p.tags[t] = .free)

/-- How many tags are free. -/
def freeTags (p : MemoryPort) : Nat := (allTags.filter (tagFree p)).length

/-- The tag the next request takes: the lowest free one. -/
def nextTag (p : MemoryPort) : Option TagId := allTags.find? (tagFree p)

/-- A tag's new state. -/
def setTag (t : TagId) (x : TagState) (p : MemoryPort) : MemoryPort := { p with tags := p.tags.set t x }

/-- Requests are issued in address order for as long as the rule of their source allows (`may` sees the
transfer's requests in flight and the free tags). A request that the port cannot issue because the link is
not up fails its transfer, and the rest is not issued (R39, R40). -/
def issueRequests (may : Nat → Nat → Bool) (now : Nat) :
    List (Addr × Nat) → Transfer → MemoryPort → Transfer × MemoryPort
  | [], t, p => ({ t with todo := [] }, p)
  | r :: rs, t, p =>
    if may t.inFlight (freeTags p) then
      match nextTag p with
      | some g =>
        if p.linkUp then
          issueRequests may now rs { t with inFlight := t.inFlight + 1, nextIndex := t.nextIndex + 1 }
            (setTag g (.request t.id t.nextIndex r.1 r.2 [] now) p)
        else ({ t with todo := [], failed := true }, p)
      | none => ({ t with todo := r :: rs }, p)
    else ({ t with todo := r :: rs }, p)

/-- A record transfer's request is issued as soon as a tag is free, two in flight at most (R39). -/
def recordMay (inFlight free : Nat) : Bool := decide (inFlight < Config.recordRequestsMax) && decide (0 < free)

/-- A line fetch's request is issued while at least three tags are free (R39). -/
def fetchMay (_inFlight free : Nat) : Bool := decide (Config.fetchTagReserve ≤ free)

/-- The transfer with a number. -/
def findTransfer (p : MemoryPort) (x : Nat) : Option Transfer := p.transfers.find? fun t => t.id == x

/-- A transfer's new content. -/
def putTransfer (t : Transfer) (p : MemoryPort) : MemoryPort :=
  { p with transfers := p.transfers.map fun u => if u.id = t.id then t else u }

/-- One transfer's requests go out as its rule allows. -/
def pumpTransfer (may : Nat → Nat → Bool) (now : Nat) (t : Transfer) (p : MemoryPort) : MemoryPort :=
  let r := issueRequests may now t.todo t p
  putTransfer r.1 r.2

/-- The read engine is free once the fetch it issues has no request left to issue (R110). -/
def freeGrant (p : MemoryPort) : MemoryPort :=
  match p.grant with
  | some x =>
    match findTransfer p x with
    | some t => if t.todo.isEmpty then { p with grant := none } else p
    | none => { p with grant := none }
  | none => p

/-- The List Reader's requests go out as soon as tags are free (R39). -/
def pumpRecord (now : Nat) (p : MemoryPort) : MemoryPort :=
  match p.transfers.find? fun t => t.fetch.isNone with
  | some t => pumpTransfer recordMay now t p
  | none => p

/-- The requests of the fetch that the read engine holds go out while three tags are free (R39, R110). -/
def pumpFetch (now : Nat) (p : MemoryPort) : MemoryPort :=
  match p.grant.bind (findTransfer p) with
  | some t => pumpTransfer fetchMay now t p
  | none => p

/-- Every request that can be issued is issued: the List Reader's first, then those of the fetch the read
engine holds (R39, R110). -/
def pumpPort (now : Nat) (p : MemoryPort) : MemoryPort := freeGrant (pumpFetch now (pumpRecord now p))

/-- The port issues what it can. -/
def pump (s : State) : State := s.withPort (pumpPort s.tick s.port)

/-- A read transfer begins; its number is `nextXfer` as it stood. -/
def startTransfer (fetch : Option (ChanId × LineRef)) (a : Addr) (len : Nat) (s : State) : State :=
  pump (s.withPort
    { s.port with
      transfers := s.port.transfers ++
        [{ id := s.port.nextXfer, fetch := fetch, todo := cutRead (len + 1) a len, nextIndex := 0, inFlight := 0,
           chunks := [], failed := false }]
      nextXfer := s.port.nextXfer + 1
      grant := if fetch.isSome then some s.port.nextXfer else s.port.grant })

/-- A transfer leaves the port's list: discarded, or its outcome taken. Its requests not yet issued are not
issued, those in flight run on and hold their tags, and the read engine is free of it (R40, R110). -/
def dropTransfer (x : Nat) (p : MemoryPort) : MemoryPort :=
  freeGrant { p with transfers := p.transfers.filter fun t => decide (t.id ≠ x) }

/-- A transfer fetches a line for channel `c`. -/
def Transfer.fetches (c : ChanId) (t : Transfer) : Bool := decide (t.fetch.map Prod.fst = some c)

/-- Every line fetch of a channel is marked discarded: none of its requests that has not been issued is issued
(R40, R95, R110, R126). -/
def dropFetches (c : ChanId) (p : MemoryPort) : MemoryPort :=
  freeGrant { p with transfers := p.transfers.filter fun t => !t.fetches c }

/-- A transfer is marked discarded (R40). -/
def discard (x : Nat) (s : State) : State := s.withPort (dropTransfer x s.port)

/-- A transfer has failed: no further request of it is issued (R40). -/
def failTransfer (x : Nat) (p : MemoryPort) : MemoryPort :=
  freeGrant { p with transfers := p.transfers.map fun t => if t.id = x then { t with failed := true, todo := [] } else t }

/-- Chunks in the order of their requests. -/
def insertChunk (c : Nat × List Byte) : List (Nat × List Byte) → List (Nat × List Byte)
  | [] => [c]
  | d :: ds => if c.1 < d.1 then c :: d :: ds else d :: insertChunk c ds

/-- One of a transfer's requests has completed with its bytes (R40). -/
def completeRequest (x index : Nat) (bytes : List Byte) (p : MemoryPort) : MemoryPort :=
  { p with transfers := p.transfers.map fun t =>
      if t.id = x then { t with inFlight := t.inFlight - 1, chunks := insertChunk (index, bytes) t.chunks } else t }

/-- The bytes of a transfer every request of which has completed (R39); none otherwise. -/
def transferBytes (p : MemoryPort) (x : Nat) : Option (List Byte) :=
  match findTransfer p x with
  | some t => if t.todo.isEmpty && t.inFlight == 0 && !t.failed then some (t.chunks.flatMap Prod.snd) else none
  | none => none

/-- A listed transfer has failed. -/
def transferFailed (p : MemoryPort) (x : Nat) : Bool :=
  match findTransfer p x with
  | some t => t.failed
  | none => false

/-! ## The reader's reads and the halt (R36, R182, R183) -/

/-- The transfer of the read the reader has in flight. -/
def readerXfer : ReaderWork → Option Nat
  | .headerRead x => some x
  | .bodyFixed x _ _ => some x
  | .bodyList x _ _ _ => some x
  | .nextRead x => some x
  | .blockRead x _ _ => some x
  | .idle | .held _ _ _ | .editing _ _ | .configuring _ _ _ => none

def setWork (w : ReaderWork) (s : State) : State := s.withReader { s.reader with work := w }

/-- The read the reader has in flight is discarded and its record left untouched; a held or taken record stays
(R34, R183). -/
def discardReads (s : State) : State :=
  match readerXfer s.reader.work with
  | some x => setWork .idle (discard x s)
  | none => s

def setEngine (e : EngineState) (s : State) : State := s.withCtl { s.ctl with engine := e }

/-- A halt cause is reported: from RUNNING, SUSPENDED or DRAINING the engine enters HALTED with it, the
reader's read is discarded and ENGINE_HALTED is raised; otherwise nothing changes (R182, R183). -/
def halt (cause : HaltCause) (s : State) : State :=
  if working s then
    raise .engineHalted (discardReads (s.withCtl { s.ctl with engine := .halted, cause := cause }))
  else s

/-- A command, a poke or a LIST_HEAD write is refused (R179). -/
def rejectCommand (s : State) : State := raise .commandRejected s

end Sys2Proof.Machine
end

