-- ==== Sys2Proof/Machine/Channels.lean ====
section
/-! DEFINITION. The shared operations of the Firing Channels, of composition's places and of the head links:
sequences and targets, crossings and line-passes, ship requests, flushes, ownership holds, parks and
configurations (chapters 1, 3, 5, 6, 7 and 8). -/

namespace Sys2Proof.Machine

/-! ## Bands, pages and line sequences (R42, R131) -/

def findBand (s : State) (id : Nat) : Option BandEntry := s.win.bands.find? fun b => b.id == id
def findPage (s : State) (id : Nat) : Option Page := s.win.pages.find? fun p => p.id == id

/-- A band's lines are in a channel's sequence: it prints the channel's plane, has lines, and is not LATE
(R55, R131). -/
def inSequence (s : State) (c : ChanId) (b : BandEntry) : Bool :=
  !b.late && decide (0 < b.lines) && chanPrints s.layout b.mask c

/-- The first line of a channel's sequence in a band numbered `id` or later; none is the end. -/
def firstLineFrom (s : State) (c : ChanId) (id : Nat) : Option LineRef :=
  (s.win.bands.find? fun b => decide (id ≤ b.id) && inSequence s c b).map fun b => { band := b.id, line := 0 }

/-- The line that follows in a channel's sequence, or the end. -/
def lineAfter (s : State) (c : ChanId) (r : LineRef) : Option LineRef :=
  match findBand s r.band with
  | some b => if r.line + 1 < b.lines then some { r with line := r.line + 1 } else firstLineFrom s c (r.band + 1)
  | none => firstLineFrom s c (r.band + 1)

/-- The anchor of a page that prints (BOUND). -/
def boundAnchor (p : Page) : Option (BitVec 48) :=
  match p.binding with
  | .bound a => some a
  | .unbound | .following | .late _ => none

/-- The target of a line for a channel, exact, in eighth-bit lines: A + 256 n + O_c. None when the line's page
is not BOUND, the band is LATE or the channel is not in the channel list (R15). -/
def target (s : State) (c : ChanId) (r : LineRef) : Option Nat := do
  let b ← findBand s r.band
  let p ← findPage s b.page
  let a ← boundAnchor p
  let o ← chanOffset s.layout c
  if b.late then none else some (a.toNat + 256 * (b.firstLine + r.line) + o)

/-- Head `h` serves band `band` (R103). Bands are numbered in window order. -/
def serves (s : State) (h : HeadId) (band : Nat) : Bool :=
  let d := s.head h
  match d.returnBand with
  | none => decide (d.service = .inService)
  | some r => (decide (d.service = .inService) || decide (d.service = .returning)) && decide (r ≤ band)

/-- The channel states (R133). -/
inductive ChannelState where
  | idle | waiting | deferred | skipping | frozen
  deriving DecidableEq, Repr

/-- The engine is HALTED or ABORTING, and every channel FROZEN (R146). -/
def frozen (s : State) : Bool :=
  match s.ctl.engine with
  | .halted | .aborting => true
  | .stopped | .running | .suspended | .draining => false

/-- A channel's state (R133). -/
def chanState (s : State) (c : ChanId) : ChannelState :=
  let ch := s.chan c
  if frozen s then .frozen
  else if ch.deferred then .deferred
  else match ch.next with
    | none => .idle
    | some r =>
      match target s c r with
      | none => .idle
      | some _ => if serves s (headOf c) r.band then .waiting else .skipping

/-- The target a channel watches (R16, R133). -/
def watched (s : State) (c : ChanId) : Option Nat :=
  let ch := s.chan c
  match chanState s c with
  | .frozen | .idle => none
  | .deferred => (ch.next.bind (lineAfter s c)).bind (target s c)
  | .skipping | .waiting => ch.next.bind (target s c)

/-- The composed line of the next-to-fire line, when it is at the front of the queue. -/
def nextComposed (ch : Channel) : Option ComposedLine :=
  match ch.queue, ch.next with
  | l :: _, some r => if l.ref = r then some l else none
  | _, _ => none

/-- The PERIOD of a channel's head. -/
def periodOf (s : State) (c : ChanId) : Nat :=
  match chanEntry s.layout c with
  | some e => e.period
  | none => 0

/-- The period since the row's last strobe has ended (R137). -/
def periodOver (s : State) (c : ChanId) : Bool :=
  match (s.chan c).lastFire with
  | none => true
  | some t => decide (t + periodOf s c ≤ s.tick)

/-- The next-to-fire line is the shipped line (R134). -/
def nextShipped (ch : Channel) : Bool :=
  match ch.slot, ch.next with
  | .shipped r, some n => decide (r = n)
  | _, _ => false

/-! ## Link requests (R135, R159, R160) -/

/-- The order in which requests of one tick count as joined (R160). -/
def requestRank : RequestKind → Nat
  | .config => 0
  | .query => 0
  | .lineA => 1
  | .lineB => 2

/-- A request joins a link queue, ahead only of requests of its own tick that R160 places after it. -/
def enqueue (r : LinkRequest) : List LinkRequest → List LinkRequest
  | [] => [r]
  | q :: qs => if q.joined = r.joined ∧ requestRank r.kind < requestRank q.kind then r :: q :: qs else q :: enqueue r qs

def removeKind (k : RequestKind) (qs : List LinkRequest) : List LinkRequest := qs.filter fun q => decide (q.kind ≠ k)

def addRequest (h : HeadId) (k : RequestKind) (s : State) : State :=
  s.setHead h { s.head h with queue := enqueue { kind := k, joined := s.tick } (s.head h).queue }

/-- The conditions of R135 for a ship request. -/
def mayRequestShip (s : State) (c : ChanId) : Bool :=
  let ch := s.chan c
  working s && (nextComposed ch).isSome &&
  (match ch.next with | some r => serves s (headOf c) r.band | none => false) &&
  decide (ch.slot = .empty) && ch.pulseEnd.isNone && !ch.shipRequest && (chanEntry s.layout c).isSome

/-- The channel requests the shipping of its next-to-fire line if it may (R135). -/
def requestShip (c : ChanId) (s : State) : State :=
  if mayRequestShip s c then
    addRequest (headOf c) (shipKind c) (s.setChan c { s.chan c with shipRequest := true })
  else s

/-- A waiting ship request is withdrawn (R135). -/
def withdrawRequest (c : ChanId) (s : State) : State :=
  if (s.chan c).shipRequest then
    let s1 := s.setChan c { s.chan c with shipRequest := false }
    s1.setHead (headOf c) { s1.head (headOf c) with queue := removeKind (shipKind c) (s1.head (headOf c)).queue }
  else s

/-- A frame that carries a line of row `r` takes its withdrawn mark (R163). -/
def markWithdrawn (r : Row) (f : Frame) : Frame :=
  match f.body with
  | .line r' _ _ => if r' = r then { f with withdrawn := true } else f
  | .config _ | .query => f

/-- The frame in flight of a channel's line, or its resend about to begin, is withdrawn (R163, R177). -/
def withdrawFrame (c : ChanId) (s : State) : State :=
  let d := s.head (headOf c)
  s.setHead (headOf c) { d with frame := d.frame.map (markWithdrawn (rowOf c)), again := d.again.map (markWithdrawn (rowOf c)) }

/-- The line in transit in a channel's slot, if any, has its frame withdrawn. -/
def withdrawTransit (c : ChanId) (s : State) : State :=
  match (s.chan c).slot with
  | .transit _ => withdrawFrame c s
  | .empty | .shipped _ => s

/-! ## Compose places (R104) -/

/-- The fifth row of R104: a compose place in a band the head does not serve, while it holds a later return
band, moves to the first line of the sequence at or after that band. -/
def adjustCompose (c : ChanId) (s : State) : State :=
  match (s.head (headOf c)).returnBand, (s.chan c).compose with
  | some r, some p =>
    if !serves s (headOf c) p.band && decide (p.band < r) then
      s.setChan c { s.chan c with compose := firstLineFrom s c r }
    else s
  | _, _ => s

/-! ## Ownership holds (R96) -/

/-- A channel has passed a line of its sequence. -/
def hasPassed (s : State) (band line : Nat) (c : ChanId) : Bool :=
  match (s.chan c).next with
  | none => true
  | some r => decide (band < r.band) || (decide (band = r.band) && decide (line < r.line))

/-- The channels of a head and of its partners (R95). -/
def seamChans (s : State) (h : HeadId) : List ChanId :=
  headChans s.layout h ++ (partners s.layout h).flatMap (headChans s.layout)

/-- A pin stands while its band is open and some channel of the head or a partner has not passed it (R96). -/
def pinStands (s : State) (h : HeadId) (p : Pin) : Bool :=
  (findBand s p.band).isSome && !(seamChans s h).all (hasPassed s p.band p.line)

/-- The pins of a head that still stand; the hold ends with its last pin (R96). -/
def releasedMap (s : State) (h : HeadId) : NozzleMap :=
  let m := s.map h
  match m.hold with
  | none => m
  | some hd =>
    let pins := hd.pins.filter (pinStands s h)
    { m with hold := if pins.isEmpty then none else some { hd with pins := pins } }

/-- Every pin that has ended is released (R96). -/
def releasePins (s : State) : State := s.withMaps (tabulate 16 fun h => releasedMap s h)

/-! ## Line-passes (R56, R148) -/

/-- The outcome a line-pass reports (R56). -/
inductive PassOutcome where
  | fired (dataFault : Bool) (lost : Nat)
  | starved
  | dropped
  | skipped (parkedKind : Bool)
  deriving DecidableEq, Repr

/-- A report taken by its band's entry (R56, R57). -/
def reportTo (o : PassOutcome) (b : BandEntry) : BandEntry :=
  let b1 := { b with outstanding := b.outstanding - 1 }
  match o with
  | .fired df lost =>
    { b1 with fired := b.fired + 1, dataFaults := b.dataFaults + (if df then 1 else 0),
              lost := min (b.lost + lost) 4294967295 }
  | .starved => { b1 with starved := b.starved + 1 }
  | .dropped => { b1 with dropped := b.dropped + 1 }
  | .skipped parkedKind => { b1 with skipped := b.skipped + 1, parkedSeen := b.parkedSeen || parkedKind }

/-- The band with a number, changed. -/
def mapBand (id : Nat) (f : BandEntry → BandEntry) (s : State) : State :=
  s.withWin { s.win with bands := s.win.bands.map fun b => if b.id = id then f b else b }

/-- A queue without its front line when that is `r`. -/
def dropFront (r : LineRef) : List ComposedLine → List ComposedLine
  | [] => []
  | l :: ls => if l.ref = r then ls else l :: ls

/-- The slot after line `r` has left it. -/
def slotAfter (r : LineRef) (x : RowSlot) : RowSlot :=
  match x with
  | .transit q => if q = r then .empty else x
  | .shipped q => if q = r then .empty else x
  | .empty => x

/-- The channel after its next-to-fire line `r` has passed, `after` being the line that follows: the line
leaves queue and slot, a compose place that stood at it moves on, and a live composition serving it is orphaned
(R104, R113, R148). -/
def passedChannel (r : LineRef) (after : Option LineRef) (ch : Channel) : Channel :=
  { ch with
    next := after
    deferred := false
    queue := dropFront r ch.queue
    slot := slotAfter r ch.slot
    compose := if ch.compose = some r then after else ch.compose
    live := if ch.live.map LiveComposition.ref = some r then none else ch.live }

/-- The next-to-fire line leaves the front of the channel's sequence with an outcome: its band takes the report
and the channel moves on (R148). -/
def linePass (c : ChanId) (o : PassOutcome) (s : State) : State :=
  match (s.chan c).next with
  | none => s
  | some r =>
    let after := lineAfter s c r
    releasePins (adjustCompose c ((mapBand r.band (reportTo o) s).setChan c (passedChannel r after (s.chan c))))

/-- The line fires: the strobe is asserted for 20 ticks and its tick recorded (R139). -/
def fire (c : ChanId) (l : ComposedLine) (s : State) : State :=
  linePass c (.fired l.dataFault l.lost)
    (s.setChan c { s.chan c with pulseEnd := some (s.tick + Config.strobeTicks), lastFire := some s.tick })

/-- A crossed line that is not composed starves; under the HALT policy the engine halts (R141, R142). -/
def starve (c : ChanId) (s : State) : State :=
  let s1 := linePass c .starved s
  match s.layout with
  | some l => if l.haltPolicy then halt .starved s1 else s1
  | none => s1

/-- The crossing of the next-to-fire line of a WAITING channel (R138). -/
def crossWaiting (c : ChanId) (s : State) : State :=
  match nextComposed (s.chan c) with
  | some l =>
    if nextShipped (s.chan c) && periodOver s c then fire c l s
    else s.setChan c { s.chan c with deferred := true }
  | none => starve c s

/-- The kind of skip: not of the layout kind unless the head is OUT_OF_SERVICE (R143). -/
def skipLine (c : ChanId) (s : State) : State :=
  linePass c (.skipped (decide ((s.head (headOf c)).service ≠ .outOfService))) s

/-- The deferred line is dropped: its frame or its ship request is withdrawn (R140). -/
def dropDeferred (c : ChanId) (s : State) : State :=
  linePass c .dropped (withdrawRequest c (withdrawTransit c s))

/-- A crossing handed to a channel, by its state (R138, R140, R143, R146). -/
def crossing (c : ChanId) (s : State) : State :=
  match chanState s c with
  | .frozen | .idle => s
  | .skipping => skipLine c s
  | .waiting => crossWaiting c s
  | .deferred =>
    let s1 := dropDeferred c s
    match chanState s1 c with
    | .waiting => crossWaiting c s1
    | .skipping => skipLine c s1
    | .frozen | .idle | .deferred => s1

/-- Crossings of lines whose target is already reached when they become watched, one after another (R19). The
first argument bounds their number. -/
def settleLoop : Nat → ChanId → State → State
  | 0, _, s => s
  | n + 1, c, s =>
    match watched s c with
    | some t => if reached s.posn.pos t then settleLoop n c (crossing c s) else s
    | none => s

/-- A bound on the crossings one channel can take without a count: each line can be deferred and pass. -/
def settleBound (s : State) : Nat := 2 * (s.win.bands.map BandEntry.lines).sum + 2

/-- A channel whose watched line may have changed: what is already reached crosses, and what can be shipped is
requested (R19, R135). -/
def settle (c : ChanId) (s : State) : State := requestShip c (settleLoop (settleBound s) c s)

/-- Every channel, in number order. -/
def settleAll (s : State) : State := allChans.foldl (fun s c => settle c s) s

/-! ## Flush (R124 to R126, R150) -/

/-- The compose place of a flush: the line after the shipped line, or the next-to-fire line (R126). -/
def flushPlace (s : State) (c : ChanId) : Option LineRef :=
  match (s.chan c).slot with
  | .shipped r => lineAfter s c r
  | .empty | .transit _ => (s.chan c).next

/-- The lines a flush leaves in a queue: the shipped line alone (R124). -/
def flushedQueue (ch : Channel) : List ComposedLine :=
  match ch.slot with
  | .shipped r => ch.queue.filter fun l => decide (l.ref = r)
  | .empty | .transit _ => []

/-- The slot after a flush: a line in transit is withdrawn, the shipped line kept (R125). -/
def flushedSlot : RowSlot → RowSlot
  | .shipped r => .shipped r
  | .empty => .empty
  | .transit _ => .empty

/-- The live composition of a channel is abandoned, and every line fetch of the channel in flight is discarded,
a fetch whose composition was orphaned before among them. R126 names the live composition's fetch, and R95 every
line fetch of the channel; every flush is taken to do as R95 says (log entry 28, DEDUCED). -/
def dropLive (c : ChanId) (s : State) : State :=
  (s.withPort (dropFetches c s.port)).setChan c { s.chan c with live := none }

/-- A flush of a channel (R124 to R126). A deferred line it discards starves at once, unless the channel is
FROZEN (R146, R150). -/
def flush (c : ChanId) (s : State) : State :=
  let place := flushPlace s c
  let s1 := dropLive c (withdrawRequest c (withdrawTransit c s))
  let ch := s1.chan c
  let s2 := adjustCompose c
    (s1.setChan c { ch with queue := flushedQueue ch, slot := flushedSlot ch.slot, compose := place })
  if (s2.chan c).deferred && !nextShipped (s2.chan c) && !frozen s2 then settle c (starve c s2) else s2

/-! ## Parks (R128, R144, R164) -/

/-- A parking head's channel: its queue is discarded, and a deferred line passes as SKIPPED of the parked kind
unless the channel is FROZEN (R144). -/
def parkChannel (c : ChanId) (s : State) : State :=
  let s1 := withdrawRequest c (withdrawTransit c s)
  let s2 := s1.setChan c { s1.chan c with queue := [], slot := .empty }
  settle c (if (s2.chan c).deferred && !frozen s2 then linePass c (.skipped true) s2 else s2)

/-- The channels of a head's partners (R124). -/
def partnerChans (s : State) (h : HeadId) : List ChanId := (partners s.layout h).flatMap (headChans s.layout)

/-- The controller of a head that parks: for a link cause LINK_RESET is pulsed, and the query timer starts from
the park or from the end of the pulse (R164). -/
def parkedLink (linkCause : Bool) (now : Nat) (d : HeadLink) : HeadLink :=
  { d with
    service := .parked, returnBand := none, ready := false, config := none, queue := [], again := none
    link := if linkCause then .resetting (now + Config.linkResetTicks) else d.link
    timer := some (if linkCause then now + Config.linkResetTicks + Config.queryInterval else now + Config.queryInterval) }

/-- A head parks after a frame's outcome (R164): its channels by R144, its partners' channels flushed, and
HEAD_PARKED raised. A head already PARKED does not park again. -/
def park (h : HeadId) (linkCause : Bool) (s : State) : State :=
  if (s.head h).service = .parked then s
  else
    let s1 := s.setHead h (parkedLink linkCause s.tick (s.head h))
    let s2 := (headChans s1.layout h).foldl (fun s c => parkChannel c s) s1
    let s3 := (partnerChans s2 h).foldl (fun s c => flush c s) s2
    raise .headParked s3

/-! ## Configurations (R169, R170) -/

/-- The parameters due to be sent: unconfirmed, or differing from the layout (R169). -/
def dueParams (s : State) (h : HeadId) : List (Fin 5) :=
  match entryOf s.layout h with
  | none => []
  | some e => (List.finRange 5).filter fun i =>
      let p := (s.head h).shadow[i]
      !p.confirmed || decide (p.value ≠ paramValue e i)

/-- A configuration begins: a CONFIG request when something is due, else a QUERY request (R169). -/
def beginConfiguration (h : HeadId) (s : State) : State :=
  let kind := if (dueParams s h).isEmpty then RequestKind.query else .config
  addRequest h kind (s.setHead h { s.head h with config := some false })

/-- A page has bound: a PARKED head noted ready becomes RETURNING with the page's first band, and its channels'
compose places move (R104, R166). -/
def returnHead (band : Nat) (h : HeadId) (s : State) : State :=
  let d := s.head h
  if d.service = .parked ∧ d.ready = true then
    let s1 := s.setHead h
      { d with service := .returning, returnBand := some band, ready := false, timer := none,
               queue := removeKind .query d.queue }
    (headChans s1.layout h).foldl (fun s c => adjustCompose c s) (beginConfiguration h s1)
  else s

/-- The binding is told to every Head Link Controller (R54). -/
def returnHeads (band : Nat) (s : State) : State := allHeads.foldl (fun s h => returnHead band h s) s

end Sys2Proof.Machine
end

