-- ==== Sys2Proof/Machine/Records.lean ====
section
/-! DEFINITION. The shared operations of the List Reader, the Band Window and the Nozzle Map Store: following
NEXT and suspending, binding pages, admitting and closing bands, carrying out edits, closing layout records
(chapters 2, 3, 4 and 5). -/

namespace Sys2Proof.Machine

/-! ## Following the chain (R25, R27, R31, R32) -/

def setCond (c : ReaderCondition) (s : State) : State := s.withReader { s.reader with cond := c }

/-- The reader enters a suspension: READER_SUSPENDED is raised, and a RUNNING engine becomes SUSPENDED (R23,
R31, R32). -/
def suspendReader (c : ReaderCondition) (s : State) : State :=
  let s1 := s.withReader { s.reader with cond := c, work := .idle }
  let s2 := if s1.ctl.engine = .running then setEngine .suspended s1 else s1
  raise .readerSuspended s2

/-- A header read at the reader address begins (R25). -/
def readHeader (s : State) : State :=
  startTransfer none s.reader.addr Config.headerBytes
    (s.withReader { s.reader with cond := .reading, work := .headerRead s.port.nextXfer })

/-- A read of the NEXT field of the record at the reader address begins (R27). -/
def readNext (s : State) : State :=
  startTransfer none (addrPlus s.reader.addr 8) 8
    (s.withReader { s.reader with cond := .reading, work := .nextRead s.port.nextXfer })

/-- A record has been taken, and the reader turns to its copy of NEXT (R27). In DRAINING it reads no header,
and the reader address moves to a NEXT that is not 0 (R34, R82); in ABORTING it stays (R35). -/
def followNext (next : Addr) (s : State) : State :=
  let s0 := setWork .idle s
  match s.ctl.engine with
  | .running | .suspended =>
    if next ≠ 0 then readHeader (s0.withReader { s0.reader with addr := next })
    else if s.reader.pokePending then readNext (s0.withReader { s0.reader with pokePending := false })
    else suspendReader .suspendedEnd s0
  | .draining => if next ≠ 0 then s0.withReader { s0.reader with addr := next } else s0
  | .stopped | .halted | .aborting => s0

/-- A poke, judged against the engine state (R33). -/
def takePoke (s : State) : State :=
  match s.ctl.engine with
  | .suspended =>
    let s1 := setEngine .running s
    match s.reader.cond with
    | .suspendedOwner => readHeader s1
    | .suspendedEnd => readNext s1
    | .reading | .waitingWindow | .waitingEdit | .waitingDrain | .configuringLayout => s1
  | .running => s.withReader { s.reader with pokePending := true }
  | .stopped | .draining | .halted | .aborting => rejectCommand s

/-! ## Pages (R44 to R55) -/

/-- A page record, changed. -/
def mapPage (id : Nat) (f : Page → Page) (s : State) : State :=
  s.withWin { s.win with pages := s.win.pages.map fun p => if p.id = id then f p else p }

/-- A page's end, its anchor plus 256 for each line; none while it has no anchor (R51). -/
def pageEnd (p : Page) : Option Nat :=
  match p.binding with
  | .bound a => some (a.toNat + 256 * p.count)
  | .late a => some (a.toNat + 256 * p.count)
  | .unbound | .following => none

/-- The end of the page a page was opened behind (R51, R52). -/
def predEnd (s : State) (p : Page) : Option Nat := (p.pred.bind (findPage s)).bind pageEnd

/-- The OFFSET of a page's first band. -/
def firstOffset (s : State) (p : Page) : Nat :=
  match findBand s p.firstBand with
  | some b => b.offset.toNat
  | none => 0

/-- What a binding decides: the page's binding, and the marks of its first band. -/
structure BindResult where
  binding : PageBinding
  overlap : Bool
  slipped : Bool
  deriving DecidableEq, Repr

/-- The overlap clamp of a triggered page and the late test of either kind, from the anchor `a` that the page's
formula gives (R52, R53). -/
def bindResult (s : State) (p : Page) (a : Nat) : BindResult :=
  let raised : Nat × Bool :=
    if p.continuous then (a, false)
    else match predEnd s p with
      | some e => if a < e then (e, true) else (a, false)
      | none => (a, false)
  let anchor := anchorOf raised.1
  if reached s.posn.pos (anchor.toNat + oMin s.layout) then
    if p.continuous then
      { binding := .bound (anchorOf ((captureOf s.posn.pos).toNat + firstOffset s p)), overlap := false, slipped := true }
    else { binding := .late anchor, overlap := raised.2, slipped := false }
  else { binding := .bound anchor, overlap := raised.2, slipped := false }

/-- The next line of a channel whose band has become LATE is the first of the next band in its sequence
(R55, R131). -/
def leaveLate (s : State) (c : ChanId) (r : Option LineRef) : Option LineRef :=
  match r with
  | none => none
  | some r =>
    match findBand s r.band with
    | some b => if b.late then firstLineFrom s c (r.band + 1) else some r
    | none => some r

/-- The open bands of a page that binds LATE take the mark and leave the sequences (R55). -/
def withdrawLate (page : Nat) (s : State) : State :=
  let s1 := s.withWin { s.win with
    bands := s.win.bands.map fun b => if b.page = page then { b with late := true, outstanding := 0 } else b }
  s1.withChans (tabulate 32 fun c =>
    { s1.chan c with next := leaveLate s1 c (s1.chan c).next, compose := leaveLate s1 c (s1.chan c).compose })

/-- A page binds from the anchor its formula gives: its anchor is recorded, the marks are set, a LATE page's
bands are withdrawn, and the Head Link Controllers are told (R54). -/
@[irreducible] def bindPage (p : Page) (a : Nat) (s : State) : State :=
  let r := bindResult s p a
  let s1 := mapPage p.id (fun q => { q with binding := r.binding }) s
  let s2 := mapBand p.firstBand
    (fun b => { b with overlap := b.overlap || r.overlap, slipped := b.slipped || r.slipped }) s1
  let s3 := match r.binding with
    | .late _ => withdrawLate p.id s2
    | .bound _ | .unbound | .following => s2
  returnHeads p.firstBand s3

/-- The FOLLOWING page behind page `p`, with the anchor its formula gives: the end of `p` plus its OFFSET (R51). -/
def nextFollowing (p : Page) (s : State) : Option (Page × Nat) := do
  let q ← s.win.pages.find? fun q => decide (q.pred = some p.id) && decide (q.binding = .following)
  let e ← predEnd s q
  some (q, e + firstOffset s q)

/-- A binding and the bindings of the FOLLOWING pages behind it, in page order (R51). The first argument
bounds their number. -/
def bindRun : Nat → Page → Nat → State → State
  | 0, _, _, s => s
  | n + 1, p, a, s =>
    match nextFollowing p (bindPage p a s) with
    | some (q, b) => bindRun n q b (bindPage p a s)
    | none => bindPage p a s

/-- A page with its FOLLOWING run bound. -/
def bindFrom (p : Page) (a : Nat) (s : State) : State := bindRun (s.win.pages.length + 1) p a s

/-- Whether a page record is still kept: an open band belongs to it, it is the open or the previous page, or
the page behind it has no anchor yet (R44, log entry 6). -/
def pageKept (w : Window) (p : Page) : Bool :=
  w.bands.any (fun b => decide (b.page = p.id)) || decide (w.openPage = some p.id) ||
  decide (w.prevPage = some p.id) ||
  w.pages.any fun q => decide (q.pred = some p.id) && (decide (q.binding = .unbound) || decide (q.binding = .following))

/-- Page records no longer kept are removed (R44). -/
def removePages (s : State) : State := s.withWin { s.win with pages := s.win.pages.filter (pageKept s.win) }

/-- The page state of R44's table, bands kept. -/
def clearedPages (w : Window) : Window :=
  { w with pages := [], openPage := none, prevPage := none, firstPage := true, unbound := [] }

/-- A page is ended: its line count is final, it becomes the previous page, and no page is open (R45, R46). -/
def endPage (id : Nat) (s : State) : State :=
  let s1 := mapPage id (fun p => { p with ended := true }) s
  s1.withWin { s1.win with openPage := none, prevPage := some id }

/-! ## Closing bands (R58 to R61) -/

/-- The page of a band, if its record is kept. -/
def bandPage (s : State) (b : BandEntry) : Option Page := findPage s b.page

/-- ANCHOR of a closing band: for the first band of a page with an anchor its integer part, held at 2^32 − 1;
otherwise 0 (R61). -/
def anchorField (s : State) (b : BandEntry) : Nat :=
  match bandPage s b with
  | some p =>
    if p.firstBand = b.id then
      match p.binding with
      | .bound a => min (a.toNat / 256) 4294967295
      | .late a => min (a.toNat / 256) 4294967295
      | .unbound | .following => 0
    else 0
  | none => 0

/-- A band's write-back unit: the nine status fields in the order of their offsets, then the control word
(R59, R61). -/
def bandUnit (addr : Addr) (result : Word32) (counts : List Nat) (anchor closePos : Nat) (notify : Bool) : WriteUnit :=
  { writes := (addrPlus addr 4, result) ::
      ((counts ++ [anchor, closePos]).zipIdx.map fun x => (addrPlus addr (24 + 4 * x.2), BitVec.ofNat 32 x.1)) ++
      [(addr, controlWord 1)]
    notify := notify }

/-- The counts of a band in the order of their fields (R59). -/
def bandCounts (b : BandEntry) : List Nat := [b.fired, b.starved, b.dropped, b.skipped, b.dataFaults, b.lost]

/-- The unit of a closing band with its result code (R59 to R61). A LATE band's counts are all 0. -/
def closeUnit (s : State) (code : ResultCode) (b : BandEntry) : WriteUnit :=
  let b1 := match code with
    | .late => { b with fired := 0, starved := 0, dropped := 0, skipped := 0, dataFaults := 0, lost := 0 }
    | .done | .aborted | .noPage | .unknownType | .rejected => b
  bandUnit b.addr (resultWord code (bandFlags b1) 0) (bandCounts b1) (anchorField s b) s.posn.pos.line.toNat b.notify

/-- A close lowers the waiting count of every STAGED set whose count is not 0 (R91). -/
def closeCounted (m : NozzleMap) : NozzleMap :=
  { m with staged := m.staged.map fun st => { st with waiting := st.waiting - 1 } }

/-- An IN_SERVICE head gives up a return band that has left the window (R167). -/
def giveUpReturn (band : Nat) (d : HeadLink) : HeadLink :=
  if d.service = .inService ∧ d.returnBand = some band then { d with returnBand := none } else d

/-- A line reference of a band that leaves the window moves to the next band of the sequence. -/
def leaveBand (s : State) (c : ChanId) (band : Nat) (r : Option LineRef) : Option LineRef :=
  match r with
  | some q => if q.band = band then firstLineFrom s c (band + 1) else r
  | none => none

/-- The head band leaves the window: sequences lose its lines, the close is reported to the Nozzle Map Store,
return bands are given up, its pins end and page records no longer needed go (R59, R91, R96, R167). -/
def removeHeadBand (b : BandEntry) (s : State) : State :=
  let s1 := s.withWin { s.win with bands := s.win.bands.tail }
  let s2 := s1.withChans (tabulate 32 fun c =>
    { s1.chan c with next := leaveBand s1 c b.id (s1.chan c).next, compose := leaveBand s1 c b.id (s1.chan c).compose })
  let s3 := s2.withMaps (tabulate 16 fun h => closeCounted (s2.map h))
  let s4 := s3.withHeads (tabulate 16 fun h => giveUpReturn b.id (s3.head h))
  removePages (releasePins s4)

/-- The code the head band closes with, if it closes: ABORTED in ABORTING; LATE with the mark; DONE when its
page is BOUND and nothing is outstanding; none in STOPPED and HALTED (R58, R60, R64). -/
def closeCode (s : State) (b : BandEntry) : Option ResultCode :=
  match s.ctl.engine with
  | .aborting => some .aborted
  | .running | .suspended | .draining =>
    if b.late then some .late
    else if ((bandPage s b).bind boundAnchor).isSome && b.outstanding == 0 then some .done
    else none
  | .stopped | .halted => none

/-- The head band closes (R59). -/
def closeHead (code : ResultCode) (b : BandEntry) (s : State) : State :=
  removeHeadBand b (handOver (closeUnit s code b) s)

/-! ## Admission (R43, R45 to R51) -/

/-- The entry of a band at its admission (R42, R43). -/
def newEntry (s : State) (b : BandRecord) (page firstLine : Nat) : BandEntry :=
  let mask := effectiveMask s.layout b.planes
  { id := s.win.nextBand, addr := s.reader.addr, lines := b.lines.toNat, mask := mask,
    sources := b.sources.filter fun e => mask.getLsbD e.plane.val, pageStart := b.pageStart, pageEnd := b.pageEnd,
    continuous := b.continuous, notify := b.notify, offset := b.offset, page := page, firstLine := firstLine,
    outstanding := b.lines.toNat * channelCount s.layout mask, fired := 0, starved := 0, dropped := 0, skipped := 0,
    dataFaults := 0, lost := 0, parkedSeen := false, late := false, slipped := false, overlap := false }

/-- A page opens behind the previous page, or behind none when the first-page mark is set (R45). -/
def openPage (b : BandRecord) (s : State) : State :=
  let s1 := match s.win.openPage with
    | some id => endPage id s
    | none => s
  let page : Page :=
    { id := s1.win.nextPage, continuous := b.continuous, binding := if b.continuous then .following else .unbound,
      count := 0, ended := false, firstBand := s1.win.nextBand,
      pred := if s1.win.firstPage then none else s1.win.prevPage }
  s1.withWin { s1.win with pages := s1.win.pages ++ [page], openPage := some page.id, firstPage := false,
                           nextPage := s1.win.nextPage + 1 }

/-- A band's lines join the sequence of each channel that prints its planes (R43, R104, R131). -/
def joinSequence (b : BandEntry) (s : State) : State :=
  s.withChans (tabulate 32 fun c =>
    let ch := s.chan c
    if inSequence s c b then
      { ch with next := some (ch.next.getD { band := b.id, line := 0 })
                compose := some (ch.compose.getD { band := b.id, line := 0 }) }
    else ch)

/-- A band joins page `p` at the window's tail and takes the page's line count as its first page line (R46);
in a LATE page it takes the LATE mark and owes nothing (R55). -/
def joinPage (b : BandRecord) (p : Page) (s : State) : State :=
  let e := newEntry s b p.id p.count
  let late := match p.binding with
    | .late _ => true
    | .unbound | .following | .bound _ => false
  let e1 := if late then { e with late := true, outstanding := 0 } else e
  let s1 := s.withWin { s.win with bands := s.win.bands ++ [e1], nextBand := s.win.nextBand + 1 }
  let s2 := mapPage p.id (fun q => { q with count := min (q.count + b.lines.toNat) (Config.anchorTop - 1) }) s1
  joinSequence e1 s2

/-- The page a PAGE_START band has opened is bound at once or made to wait (R48 to R51). -/
def bindOpened (p : Page) (offset : Nat) (s : State) : State :=
  if p.continuous then
    match p.pred with
    | none => bindFrom p ((captureOf s.posn.pos).toNat + offset) s
    | some _ =>
      match predEnd s p with
      | some e => bindFrom p (e + offset) s
      | none => s
  else
    match s.posn.productQueue with
    | q :: qs => bindFrom p (q.toNat + offset) (s.withPosn { s.posn with productQueue := qs })
    | [] => s.withWin { s.win with unbound := s.win.unbound ++ [p.id] }

/-- The unit of a band closed NO_PAGE: every count and the anchor 0, no flags (R60, R61). -/
def noPageUnit (s : State) (b : BandRecord) : WriteUnit :=
  bandUnit s.reader.addr (resultWord .noPage 0 0) [0, 0, 0, 0, 0, 0] 0 s.posn.pos.line.toNat b.notify

/-- A band admitted to the window and placed in a page (R45, R46), before the reader follows its NEXT. -/
def placeBand (b : BandRecord) (s : State) : State :=
  let s1 := if b.pageStart then openPage b s else s
  match s1.win.openPage.bind (findPage s1) with
  | none => handOver (noPageUnit s1 b) { s1 with win := { s1.win with nextBand := s1.win.nextBand + 1 } }
  | some p =>
    let s2 := joinPage b p s1
    let s3 := if b.pageEnd then endPage p.id s2 else s2
    let s4 := if b.pageStart then bindOpened p b.offset.toNat s3 else s3
    removePages s4

/-! ## Edits (R87 to R98) -/

/-- The record of an applied edit closes DONE with the flags that the edit raised (R98). -/
def closeEdit (e : EditRecord) (r : State × Bool × Bool) : State :=
  handOver (resultUnit r.1.reader.addr 2 e.notify (resultWord .done (editFlags r.2.1 r.2.2) 0)) r.1

/-- A staged edit's map: the STAGED set formed from a copy of ACTIVE with the window's band count, or, when that
is 0, promoted at once (R90). With the fourth OP value no set is formed (R87). -/
def stagedMap (s : State) (e : EditRecord) : NozzleMap :=
  let m := s.map e.head
  let r := applyEdit e.op (nozzleLimit s.layout e.head) e.indices m.active
  if e.op = .noOperation then m
  else if s.win.bands.isEmpty then { m with active := r.set }
  else { m with staged := some { set := r.set, waiting := s.win.bands.length } }

/-- A staged edit is applied (R90). -/
def applyStaged (e : EditRecord) (s : State) : State := s.setMap e.head (stagedMap s e)

/-- What an immediate edit does to a head's sets, with its flags (R94). -/
def immediateSets (limit : Nat) (e : EditRecord) (m : NozzleMap) : NozzleMap × Bool × Bool :=
  let a := applyEdit e.op limit e.indices m.active
  match m.staged with
  | none => ({ m with active := a.set }, a.ignored, a.capacity)
  | some st =>
    let b := applyEdit e.op limit e.indices st.set
    ({ m with active := a.set, staged := some { st with set := b.set } }, a.ignored || b.ignored, a.capacity || b.capacity)

/-- The pins of an edit on head `h`: the shipped line of each flushed channel, with the held set its band used
(R96). -/
def newPins (s : State) (h : HeadId) : List Pin :=
  (seamChans s h).filterMap fun c =>
    match (s.chan c).slot with
    | .shipped r => some { band := r.band, line := r.line, set := mapVersion (s.map h) s.win.bands r.band }
    | .empty | .transit _ => none

/-- The hold an immediate edit forms, if a flushed channel has a shipped line (R96). -/
def newHold (s : State) (h : HeadId) : Option Hold :=
  let pins := newPins s h
  if pins.isEmpty then none
  else some { active := (s.map h).active, staged := (s.map h).staged.map StagedSet.set, pins := pins }

/-- An immediate edit waits for a hold on its head or on a partner (R97). -/
def holdBlocks (s : State) (h : HeadId) : Bool :=
  (s.map h).hold.isSome || (partners s.layout h).any fun g => (s.map g).hold.isSome

/-- The reader's edit waits on a hold: a staged edit does not (R97). -/
def editWaits (s : State) (e : EditRecord) : Bool := e.immediate && holdBlocks s e.head

/-- An immediate edit is applied: the sets, the hold and the flushes as one step (R94 to R96). In ABORTING the
queues are empty, and nothing is flushed and no hold formed (R100). -/
def applyImmediate (e : EditRecord) (s : State) : State :=
  let m := s.map e.head
  let m1 := (immediateSets (nozzleLimit s.layout e.head) e m).1
  if m1 ≠ m ∧ s.ctl.engine ≠ .aborting then
    (seamChans s e.head).foldl (fun s c => flush c s) (s.setMap e.head { m1 with hold := newHold s e.head })
  else s.setMap e.head m1

/-- An edit is applied by its kind, with the flags it raised (R29, R87). -/
def applyRecord (e : EditRecord) (s : State) : State × Bool × Bool :=
  let m := s.map e.head
  let limit := nozzleLimit s.layout e.head
  if e.immediate then (applyImmediate e s, (immediateSets limit e m).2)
  else
    let r := applyEdit e.op limit e.indices m.active
    (applyStaged e s, r.ignored, r.capacity)

/-- An edit is carried out: it is applied, its record is closed DONE, and NEXT is followed (R29, R98). Where a flush
halts the engine, the record still closes DONE, and NEXT is not followed (log entry 13). -/
def carryOutEdit (e : EditRecord) (next : Addr) (s : State) : State :=
  followNext next (closeEdit e (applyRecord e s))

/-! ## Layout records (R71, R81, R83) -/

/-- The park mask: the heads PARKED at this moment (R80). -/
def parkMask (s : State) : BitVec 16 :=
  allHeads.foldl (fun m h => if (s.head h).service = .parked then m ||| (1#16 <<< h.val) else m) 0#16

/-- A layout record's unit is handed over (R71, R81, R83). -/
def closeLayout (l : LayoutRecord) (code : ResultCode) (flags : BitVec 8) (park : BitVec 16) (s : State) : State :=
  handOver (resultUnit s.reader.addr 3 l.notify (resultWord code flags park)) s

/-- No head is CONFIGURING (R80). -/
def noneConfiguring (s : State) : Bool := allHeads.all fun h => decide ((s.head h).service ≠ .configuring)

/-- No head has a STAGED set whose count has reached 0 and that waits for its promotion (R92). -/
def noneStaged (s : State) : Bool := allHeads.all fun h => (s.map h).staged.isNone

/-! ## The ends of DRAINING and ABORTING (R181, R187) -/

/-- The reader has no record that it has taken and not yet closed (R181, R187). -/
def nothingTaken (s : State) : Bool :=
  match s.reader.work with
  | .editing _ _ | .blockRead _ _ _ | .configuring _ _ _ => false
  | .idle | .headerRead _ | .bodyFixed _ _ _ | .bodyList _ _ _ _ | .nextRead _ | .held _ _ _ => true

/-- Window empty, nothing taken and not closed, every unit issued (or reported as failed), every STAGED set
promoted (R99, R100, R181, R187). -/
def workDone (s : State) : Bool := s.win.bands.isEmpty && nothingTaken s && s.port.failed.isEmpty && noneStaged s

/-- DRAINING ends in STOPPED when its conditions hold, and an abandoned record is dropped (R181). -/
def drainEnds (s : State) : State :=
  if s.ctl.engine = .draining ∧ workDone s = true then
    raise .stoppedEvent (setEngine .stopped (setWork .idle s))
  else s

/-- ABORTING ends in STOPPED when its conditions hold: the page state is cleared and a held record dropped
(R187). -/
def abortEnds (s : State) : State :=
  if s.ctl.engine = .aborting ∧ workDone s = true then
    raise .stoppedEvent (setEngine .stopped (setWork .idle (s.withWin (clearedPages s.win))))
  else s

end Sys2Proof.Machine
end

