-- ==== Sys2Proof/Machine/Position.lean ====
section
/-! DEFINITION. The commands of the Position Unit and of the channels' own clocks: FORWARD_COUNT,
BACKWARD_COUNT, ILLEGAL_TRANSITION, PRODUCT_EDGE, PRODUCT_DETECT_OTHER_CHANGE, STROBE_PULSE_END, PERIOD_END
(chapters 1 and 7). -/

namespace Sys2Proof.Machine

/-- The invert-direction option in force; clear while no layout is loaded (R2). -/
def inverted (s : State) : Bool :=
  match s.layout with
  | some l => l.invert
  | none => false

/-- The decoder takes a new pair (R2, R3). -/
def setPair (p : Bool × Bool) (s : State) : State := s.withPosn { s.posn with encA := p.1, encB := p.2 }

def pairOf (s : State) : Bool × Bool := (s.posn.encA, s.posn.encB)

def setPos (p : Position) (s : State) : State := s.withPosn { s.posn with pos := p }

/-- A forward count offered to a channel: its watched target is crossed when `before` had not reached it and P
now has; the lines that then become watched settle by R19 (R8, R18). -/
def offerCount (before : Position) (c : ChanId) (s : State) : State :=
  match watched s c with
  | some t => if !reached before t && reached s.posn.pos t then settle c (crossing c s) else s
  | none => s

/-- FORWARD_COUNT (R2, R6, R8, R18). While no layout is loaded the decoder takes the pair and nothing else
happens. -/
def execForwardCount (s : State) : Host.Outcome State Fault Refusal :=
  let s1 := setPair (if inverted s then tableBackward (pairOf s) else tableForward (pairOf s)) s
  match s.layout with
  | none => .next s1
  | some l =>
    let s2 := setPos (posForward l.increment s.posn.pos) s1
    .next (allChans.foldl (fun s' c => offerCount s.posn.pos c s') s2)

/-- BACKWARD_COUNT (R2, R7): P falls and nothing is crossed. -/
def execBackwardCount (s : State) : Host.Outcome State Fault Refusal :=
  let s1 := setPair (if inverted s then tableForward (pairOf s) else tableBackward (pairOf s)) s
  match s.layout with
  | none => .next s1
  | some l => .next (setPos (posBackward l.increment s.posn.pos) s1)

/-- ILLEGAL_TRANSITION (R3): no count; the decoder takes the new pair and ENCODER_ERROR is raised. -/
def execIllegalTransition (s : State) : Host.Outcome State Fault Refusal :=
  .next (raise .encoderError (setPair (!s.posn.encA, !s.posn.encB) s))

def setLevel (x : Bool) (s : State) : State := s.withPosn { s.posn with productLevel := x }

/-- The acceptance test of R10 for the capture `q`. -/
def edgeAccepted (s : State) (q : BitVec 40) : Bool :=
  working s &&
  match s.layout with
  | none => false
  | some l =>
    match s.posn.lockoutRef with
    | none => true
    | some r => decide (r.toNat + 256 * l.lockout ≤ q.toNat)

/-- A capture goes to the oldest page of the unbound list, or to the product queue (R11 to R13, R50). -/
def takeCapture (q : BitVec 40) (s : State) : State :=
  match s.win.unbound with
  | id :: ids =>
    let s1 := s.withWin { s.win with unbound := ids }
    match findPage s1 id with
    | some p => settleAll (removePages (bindFrom p (q.toNat + firstOffset s1 p) s1))
    | none => s1
  | [] =>
    if s.posn.productQueue.length < Config.productQueueMax then
      s.withPosn { s.posn with productQueue := s.posn.productQueue ++ [q] }
    else raise .productMissed s

/-- A product edge at the acceptance test (R10, R11). -/
def takeEdge (s : State) : State :=
  let q := captureOf s.posn.pos
  if edgeAccepted s q then takeCapture q (s.withPosn { s.posn with lockoutRef := some q }) else s

/-- PRODUCT_EDGE (R9 to R13). The level changes in the direction of the polarity; an input already at that
level makes no edge. While no layout is loaded the level changes and no edge is accepted. -/
def execProductEdge (s : State) : Host.Outcome State Fault Refusal :=
  match s.layout with
  | none => .next (setLevel (!s.posn.productLevel) s)
  | some l => if s.posn.productLevel = !l.falling then .next s else .next (takeEdge (setLevel (!l.falling) s))

/-- PRODUCT_DETECT_OTHER_CHANGE (R9): the level changes against the polarity, which is no event. -/
def execProductDetectOtherChange (s : State) : Host.Outcome State Fault Refusal :=
  match s.layout with
  | none => .next (setLevel (!s.posn.productLevel) s)
  | some l => .next (setLevel l.falling s)

/-- STROBE_PULSE_END (R139): the pulse of channel `c` ends at its tick, and shipping is requested if it may. A
channel without a pulse has none to end. -/
def execStrobePulseEnd (c : ChanId) (s : State) : Host.Outcome State Fault Refusal :=
  match (s.chan c).pulseEnd with
  | none => .next s
  | some t =>
    let s1 := advanceTo t s
    .next (requestShip c (s1.setChan c { s1.chan c with pulseEnd := none }))

/-- A DEFERRED channel that becomes ready fires its deferred line, and the following line settles (R137,
R140). -/
def fireDeferred (c : ChanId) (s : State) : State :=
  match nextComposed (s.chan c) with
  | some l => settle c (fire c l s)
  | none => s

/-- PERIOD_END (R137): the period of channel `c` ends while its deferred line is shipped, and the line fires.
Otherwise the end of a period is no event. -/
def execPeriodEnd (c : ChanId) (s : State) : Host.Outcome State Fault Refusal :=
  match (s.chan c).lastFire with
  | none => .next s
  | some t =>
    let s1 := advanceTo (t + periodOf s c) s
    if chanState s c = .deferred ∧ nextShipped (s.chan c) = true then .next (fireDeferred c s1) else .next s

end Sys2Proof.Machine
end

