-- ==== Sys2Proof/Machine/Engine.lean ====
section
/-! DEFINITION. The commands of the host: START, STOP, ABORT, ENGINE_RESET, POKE, the register writes and the
reads with an effect, chip reset, and the ends of DRAINING and ABORTING; with the words the register window
reads as (chapter 9). -/

namespace Sys2Proof.Machine

/-! ## START and STOP (R180, R181) -/

/-- START is taken in STOPPED when LIST_HEAD is not 0 (R24, R179). -/
def startTaken (s : State) : Bool := decide (s.ctl.engine = .stopped) && decide (recordAddr s.reader.listHead ≠ 0)

/-- The state in which START begins reading (R180). -/
def startedState (s : State) : State :=
  let s1 := s.withPosn { s.posn with productQueue := [] }
  let s2 := s1.withWin (clearedPages s1.win)
  let s3 := s2.withCtl { s2.ctl with engine := .running, cause := .none }
  s3.withReader { s3.reader with addr := recordAddr s.reader.listHead, pokePending := false }

/-- The START command (R180). -/
def takeStart (s : State) : State := if startTaken s then readHeader (startedState s) else rejectCommand s

/-- The reader's current work at STOP (R34): a read of a header, body or NEXT field is discarded, a held record
abandoned, anything taken runs on. -/
def stopReader (s : State) : State :=
  match s.reader.work with
  | .headerRead _ | .bodyFixed _ _ _ | .bodyList _ _ _ _ | .nextRead _ => discardReads s
  | .held b n _ => setWork (.held b n true) s
  | .idle | .editing _ _ | .blockRead _ _ _ | .configuring _ _ _ => s

/-- The STOP command (R181): DRAINING, and STOPPED at once when nothing is left to drain. -/
def takeStop (s : State) : State :=
  if reading s then
    let s1 := setEngine .draining (stopReader s)
    drainEnds (s1.withReader { s1.reader with pokePending := false })
  else rejectCommand s

/-! ## ABORT (R185) -/

/-- An edit being carried out that waits on no hold completes first, its application being indivisible: it is applied
with its flushes in the engine state that stood, and its record closed DONE with NEXT not followed (R35, R185; log
entry 29). -/
def completeEdit (s : State) : State :=
  match s.reader.work with
  | .editing e _ => if editWaits s e then s else setWork .idle (closeEdit e (applyRecord e s))
  | .idle | .headerRead _ | .bodyFixed _ _ _ | .bodyList _ _ _ _ | .nextRead _ | .held _ _ _ | .blockRead _ _ _
  | .configuring _ _ _ => s

/-- A channel at ABORT: its deferred line is cancelled, its queue and slot emptied, its ship request withdrawn
and its live composition discarded; a strobe pulse runs on (R147). -/
def abortedChannel (ch : Channel) : Channel :=
  { ch with deferred := false, queue := [], slot := .empty, shipRequest := false, live := none }

/-- The line fetches are discarded and the read engine is free (R110, R114). -/
def discardFetches (p : MemoryPort) : MemoryPort :=
  { p with transfers := p.transfers.filter fun t => t.fetch.isNone, grant := none }

/-- A parked head after a break: its note cleared and its timer restarted from the end of the pulse (R173). -/
def brokenTimer (now : Nat) : Option Nat := some (now + Config.linkResetTicks + Config.queryInterval)

/-- A head link at ABORT (R173): the frame in flight is broken, LINK_RESET pulsed and the queue emptied;
CONFIGURING and RETURNING heads park; ABSENT and OUT_OF_SERVICE heads are not touched. -/
def abortedLink (now : Nat) (d : HeadLink) : HeadLink :=
  let broken : HeadLink :=
    { d with queue := [], frame := none, again := none, link := .resetting (now + Config.linkResetTicks) }
  match d.service with
  | .absent | .outOfService => d
  | .inService => broken
  | .parked => { broken with ready := false, timer := brokenTimer now }
  | .configuring | .returning =>
    { broken with service := .parked, returnBand := none, ready := false, config := none, timer := brokenTimer now }

/-- The heads that ABORT parks (R173). -/
def parkingHeads (s : State) : List HeadId :=
  allHeads.filter fun h => decide ((s.head h).service = .configuring) || decide ((s.head h).service = .returning)

/-- The parks of ABORT, the controllers having been treated: the partners of each head that parks are flushed, which
finds empty queues and resets their compose places, and HEAD_PARKED is raised (R124, R126, R164, R173). -/
def abortParks (parking : List HeadId) (s : State) : State :=
  if parking.isEmpty then s
  else raise .headParked ((parking.flatMap (partnerChans s)).foldl (fun s c => flush c s) s)

/-- The reader's work at ABORT (R35, R83, R185), the heads having been treated: reads are discarded, a layout
record in hand is closed, a held band or staged edit stays held, an edit waiting on a hold goes on waiting. -/
def abortReader (s : State) : State :=
  match s.reader.work with
  | .headerRead _ | .bodyFixed _ _ _ | .bodyList _ _ _ _ | .nextRead _ => discardReads s
  | .blockRead _ l _ => closeLayout l .aborted 0 0 (discardReads s)
  | .configuring l flags _ => closeLayout l .done flags (parkMask s) (setWork .idle s)
  | .held (.layout l) _ false => closeLayout l .aborted 0 0 (setWork .idle s)
  | .held _ _ _ | .idle | .editing _ _ => s

/-- The page state at ABORT: the unbound list and the open and previous page are dropped, and the records that
open bands belong to are kept (R64, R185). -/
def abortedPages (w : Window) : Window :=
  { w with pages := w.pages.filter fun p => w.bands.any fun b => decide (b.page = p.id)
           openPage := none, prevPage := none, firstPage := true, unbound := [] }

/-- What ABORT does at once, before the closes and after an edit's completion (R185). -/
def abortedState (s : State) : State :=
  let s1 := setEngine .aborting s
  let s2 := s1.withChans (tabulate 32 fun c => abortedChannel (s.chan c))
  let s3 := s2.withPort (discardFetches s2.port)
  let s4 := s3.withHeads (tabulate 16 fun h => abortedLink s.tick (s.head h))
  let s5 := abortParks (parkingHeads s) s4
  let s6 := abortReader s5
  let s7 := s6.withReader { s6.reader with pokePending := false }
  let s8 := s7.withPosn { s7.posn with productQueue := [] }
  s8.withWin (abortedPages s8.win)

/-- The ABORT command (R185): STOPPED at once when nothing is open and nothing in hand (R187). -/
def takeAbort (s : State) : State :=
  match s.ctl.engine with
  | .running | .suspended | .draining | .halted => abortEnds (abortedState (completeEdit s))
  | .stopped | .aborting => rejectCommand s

/-! ## ENGINE_RESET (R188) -/

/-- The nozzle maps at ENGINE_RESET: an edit being carried out is applied, every STAGED set promoted, every hold
released (R101). Nothing tells an edit applied before the promotions from one applied to the promoted set: the set the
head is left with is the same, and its flags are not written back (R35). -/
def resetMap (s : State) (h : HeadId) : NozzleMap :=
  let m := s.map h
  let promoted := match m.staged with
    | some st => st.set
    | none => m.active
  match s.reader.work with
  | .editing e _ =>
    if e.head = h then
      { active := (applyEdit e.op (nozzleLimit s.layout h) e.indices promoted).set, staged := none, hold := none }
    else { active := promoted, staged := none, hold := none }
  | .idle | .headerRead _ | .bodyFixed _ _ _ | .bodyList _ _ _ _ | .nextRead _ | .held _ _ _ | .blockRead _ _ _
  | .configuring _ _ _ => { active := promoted, staged := none, hold := none }

/-- A channel at ENGINE_RESET: IDLE and empty, its last fire tick kept (R130, R147). -/
def resetChannel (ch : Channel) : Channel := { Channel.reset with lastFire := ch.lastFire }

/-- A head link at ENGINE_RESET: as at ABORT, on all sixteen heads (R174). -/
def resetLink (now : Nat) (d : HeadLink) : HeadLink :=
  let parks := match d.service with
    | .configuring | .returning | .parked => true
    | .absent | .outOfService | .inService => false
  { d with
    service := if parks then .parked else d.service
    returnBand := none, ready := false, config := none, queue := [], frame := none, again := none
    link := .resetting (now + Config.linkResetTicks)
    timer := if parks then brokenTimer now else none }

/-- ENGINE_RESET (R188). The tags of requests in flight are kept (R41). -/
def takeEngineReset (s : State) : State :=
  { s with
    posn := { s.posn with productQueue := [] }
    reader := { s.reader with addr := 0, cond := .reading, pokePending := false, work := .idle }
    win := { clearedPages s.win with bands := [] }
    maps := tabulate 16 (resetMap s)
    chans := tabulate 32 fun c => resetChannel (s.chan c)
    heads := tabulate 16 fun h => resetLink s.tick (s.head h)
    port := { s.port with transfers := [], grant := none, failed := [] }
    ctl := { s.ctl with engine := .stopped, cause := .none, events := 0, irq := false, capture := none } }

/-! ## Chip reset -/

/-- Every piece of state at its chip-reset value, the inputs resampled, the PCIe link as it is (R174; log entries
3 and 9). The command queue is the model's own and is kept. -/
def chipResetState (encA encB product : Bool) (s : State) : State :=
  { State.reset with
    pending := s.pending
    posn := { State.reset.posn with encA := encA, encB := encB, productLevel := product }
    port := { State.reset.port with linkUp := s.port.linkUp } }

/-! ## The register window (R192, R193) -/

/-- The command a write to ENGINE_CONTROL carries, or its refusal (R179, R198). -/
def writeEngineControl (v : Word32) (s : State) : State :=
  match commandCode v with
  | some .start => takeStart s
  | some .stop => takeStop s
  | some .abort => takeAbort s
  | some .engineReset => takeEngineReset s
  | some .poke => takePoke s
  | none => rejectCommand s

/-- A write to a word of LIST_HEAD: taken in STOPPED, the low three bits not held; refused otherwise (R24,
R198). -/
def writeListHead (high : Bool) (v : Word32) (s : State) : State :=
  if s.ctl.engine = .stopped then
    let low := s.reader.listHead.extractLsb' 0 32
    let top := s.reader.listHead.extractLsb' 32 32
    s.withReader { s.reader with listHead := if high then v ++ low else top ++ (v &&& 0xFFFFFFF8#32) }
  else rejectCommand s

/-- A write to EVENTS clears each flag whose bit is 1 (R190). -/
def writeEvents (v : Word32) (s : State) : State := setEvents (s.ctl.events &&& ~~~(v.setWidth 9)) s.ctl.enables s

/-- A write to EVENT_ENABLE sets the nine enables (R191). -/
def writeEnables (v : Word32) (s : State) : State := setEvents s.ctl.events (v.setWidth 9) s

/-- ENGINE_STATUS (R192, 10.8). -/
def statusWord (s : State) : Word32 :=
  BitVec.ofNat 32 (engineCode s.ctl.engine + 256 * causeCode s.ctl.cause + 65536 * conditionCode s.reader.cond)

/-- HEAD_STATE: the pair of head h in bits 2h + 1 and 2h (R176). -/
def headStateWord (s : State) : Word32 :=
  allHeads.foldl (fun w h => w ||| (BitVec.ofNat 32 (servicePair (s.head h).service) <<< (2 * h.val))) 0#32

/-- The word at a word offset of the window as it stands; 0 outside 0x00 to 0x28 (R193). -/
def readWord (offset : Nat) (s : State) : Word32 :=
  match offset with
  | 0x08 => s.reader.listHead.extractLsb' 0 32
  | 0x0C => s.reader.listHead.extractLsb' 32 32
  | 0x10 => statusWord s
  | 0x14 => s.reader.addr.extractLsb' 0 32
  | 0x18 => s.reader.addr.extractLsb' 32 32
  | 0x1C => s.ctl.events.setWidth 32
  | 0x20 => s.ctl.enables.setWidth 32
  | 0x24 => s.posn.pos.line
  | 0x28 => headStateWord s
  | _ => 0

/-- A write at a byte offset of the window: the word it lies in takes the whole value, bytes not written as 0
(R193). -/
def writeWindow (offset : BitVec 12) (v : Word32) (s : State) : State :=
  match (offset &&& ~~~3#12).toNat with
  | 0x00 => writeEngineControl v s
  | 0x04 => takePoke s
  | 0x08 => writeListHead false v s
  | 0x0C => writeListHead true v s
  | 0x1C => writeEvents v s
  | 0x20 => writeEnables v s
  | _ => s

/-! ## The commands -/

/-- START (R180). -/
def execStart (s : State) : Host.Outcome State Fault Refusal := .next (takeStart s)

/-- STOP (R181). -/
def execStop (s : State) : Host.Outcome State Fault Refusal := .next (takeStop s)

/-- ABORT (R185). -/
def execAbort (s : State) : Host.Outcome State Fault Refusal := .next (takeAbort s)

/-- ENGINE_RESET (R188). -/
def execEngineReset (s : State) : Host.Outcome State Fault Refusal := .next (takeEngineReset s)

/-- POKE (R33). -/
def execPoke (s : State) : Host.Outcome State Fault Refusal := .next (takePoke s)

/-- POKE_REGISTER_WRITE (R33, R198): a poke whatever the value. -/
def execPokeRegisterWrite (_value : Word32) (_bytes : BitVec 4) (s : State) : Host.Outcome State Fault Refusal :=
  .next (takePoke s)

/-- UNKNOWN_COMMAND_CODE (R198): a write to ENGINE_CONTROL. A code that names no command is refused; one that
names a command is that command. -/
def execUnknownCommandCode (value : Word32) (bytes : BitVec 4) (s : State) : Host.Outcome State Fault Refusal :=
  .next (writeEngineControl (accessed value bytes) s)

/-- LIST_HEAD_WRITE (R24). -/
def execListHeadWrite (high : Bool) (value : Word32) (bytes : BitVec 4) (s : State) :
    Host.Outcome State Fault Refusal :=
  .next (writeListHead high (accessed value bytes) s)

/-- EVENTS_WRITE (R190). -/
def execEventsWrite (value : Word32) (bytes : BitVec 4) (s : State) : Host.Outcome State Fault Refusal :=
  .next (writeEvents (accessed value bytes) s)

/-- EVENT_ENABLE_WRITE (R191). -/
def execEventEnableWrite (value : Word32) (bytes : BitVec 4) (s : State) : Host.Outcome State Fault Refusal :=
  .next (writeEnables (accessed value bytes) s)

/-- What a read of the bytes `bytes` of the word at a byte offset of the window returns: the bytes asked for of the
word it lies in (R193). Such a read changes nothing, but for those of CURRENT_RECORD, which have commands of their
own. -/
def readRegister (offset : BitVec 12) (bytes : BitVec 4) (s : State) : Word32 :=
  accessed (readWord (offset &&& ~~~3#12).toNat s) bytes

/-- CURRENT_RECORD_LOW_READ (R193): the bytes asked for, and the high word captured fresh. -/
def execCurrentRecordLowRead (bytes : BitVec 4) (s : State) : Host.Outcome State Fault Refusal :=
  .next (s.withCtl { s.ctl with readData := readRegister 0x14 bytes s, capture := some (readWord 0x18 s) })

/-- CURRENT_RECORD_HIGH_READ (R193): the fresh capture, which is then used, or the high word as it stands. -/
def execCurrentRecordHighRead (bytes : BitVec 4) (s : State) : Host.Outcome State Fault Refusal :=
  .next (s.withCtl { s.ctl with readData := accessed (s.ctl.capture.getD (readWord 0x18 s)) bytes, capture := none })

/-- REGISTER_WRITE (R193): no effect at a word without behaviour of its own; a write to an acting word is what
that word makes of it. -/
def execRegisterWrite (offset : BitVec 12) (value : Word32) (bytes : BitVec 4) (s : State) :
    Host.Outcome State Fault Refusal :=
  .next (writeWindow offset (accessed value bytes) s)

/-- CHIP_RESET (R174). -/
def execChipReset (encA encB product : Bool) (s : State) : Host.Outcome State Fault Refusal :=
  .next (chipResetState encA encB product s)

/-- DRAIN_END (R181). -/
def execDrainEnd (s : State) : Host.Outcome State Fault Refusal := .next (drainEnds s)

/-- ABORT_END (R187). -/
def execAbortEnd (s : State) : Host.Outcome State Fault Refusal := .next (abortEnds s)

end Sys2Proof.Machine
end

