-- ==== Sys2Proof/Machine/ListReader.lean ====
section
/-! DEFINITION. The steps of the List Reader, the Layout Store, the Nozzle Map Store and the Band Window:
HEADER_READ_COMPLETE to WRITEBACK_UNIT_FAILED (chapters 2 to 5). A step whose condition does not hold does not
come about: the state stays as it is (log entry 2). -/

namespace Sys2Proof.Machine

/-! ## Header, body and NEXT field (R25 to R30) -/

/-- OWN of a header (10.2). -/
def headerOwn (bs : List Byte) : Bool := (BitVec.ofNat 8 (field bs 0 1)).getLsbD 0

/-- NEXT of a header as the part takes it (R21). -/
def headerNext (bs : List Byte) : Addr := recordAddr (BitVec.ofNat 64 (field bs 8 8))

/-- The reader address matches the address of an open band (R22). -/
def matchesOpenBand (s : State) : Bool := s.win.bands.any fun b => decide (b.addr = s.reader.addr)

/-- The body read of a device-owned record of known type begins with its fixed part (R26). -/
def readBody (t : RecordType) (next : Addr) (s : State) : State :=
  startTransfer none (addrPlus s.reader.addr 16) (fixedBytes t) (setWork (.bodyFixed s.port.nextXfer t next) s)

/-- A record of unknown type is closed at once, TYPE as read, and NEXT followed (R26). -/
def closeUnknown (type : Nat) (next : Addr) (s : State) : State :=
  followNext next (handOver (resultUnit s.reader.addr type false (resultWord .unknownType 0 0)) s)

/-- The header `bs` read at the reader address is acted on (R25). -/
def actOnHeader (bs : List Byte) (s : State) : State :=
  if headerOwn bs && !matchesOpenBand s then
    match recordType (field bs 1 1) with
    | some t => readBody t (headerNext bs) s
    | none => closeUnknown (field bs 1 1) (headerNext bs) s
  else if s.reader.pokePending then readHeader (s.withReader { s.reader with pokePending := false })
  else suspendReader .suspendedOwner s

/-- HEADER_READ_COMPLETE (R25). -/
def execHeaderReadComplete (s : State) : Host.Outcome State Fault Refusal :=
  match s.reader.work with
  | .headerRead x =>
    match transferBytes s.port x with
    | some bs => if reading s then .next (actOnHeader bs (discard x s)) else .next s
    | none => .next s
  | .idle | .bodyFixed _ _ _ | .bodyList _ _ _ _ | .nextRead _ | .held _ _ _ | .editing _ _ | .blockRead _ _ _
  | .configuring _ _ _ => .next s

/-- A record read whole is held and taken by its type as far as nothing delays it (R28, R29, R30): a band waits
for its admission, or halts the engine when no layout is loaded; an edit is taken unless it waits for a
promotion; a layout record waits for the window to empty. -/
def holdRecord (body : RecordBody) (next : Addr) (s : State) : State :=
  let held := setWork (.held body next false) s
  match body with
  | .band _ =>
    if s.layout.isNone then halt .noLayout held
    else if Config.windowMax ≤ s.win.bands.length then setCond .waitingWindow held
    else held
  | .edit e =>
    if !e.immediate && (s.map e.head).staged.isSome then setCond .waitingEdit held
    else setWork (.editing e next) s
  | .layout _ => if s.win.bands.isEmpty then held else setCond .waitingDrain held

/-- The fixed part of a body has arrived: its list is read, or the record is whole (R26). -/
def actOnFixed (t : RecordType) (next : Addr) (bs : List Byte) (s : State) : State :=
  if listBytes t bs = 0 then holdRecord (recordBody t bs []) next s
  else
    startTransfer none (addrPlus s.reader.addr (16 + fixedBytes t)) (listBytes t bs)
      (setWork (.bodyList s.port.nextXfer t next bs) s)

/-- BODY_READ_COMPLETE (R26). -/
def execBodyReadComplete (s : State) : Host.Outcome State Fault Refusal :=
  match s.reader.work with
  | .bodyFixed x t next =>
    match transferBytes s.port x with
    | some bs => if reading s then .next (actOnFixed t next bs (discard x s)) else .next s
    | none => .next s
  | .bodyList x t next fixed =>
    match transferBytes s.port x with
    | some bs => if reading s then .next (holdRecord (recordBody t fixed bs) next (discard x s)) else .next s
    | none => .next s
  | .idle | .headerRead _ | .nextRead _ | .held _ _ _ | .editing _ _ | .blockRead _ _ _ | .configuring _ _ _ =>
    .next s

/-- The NEXT field read anew (R27): an address is followed; 0 suspends the reader, unless a poke has come
meanwhile, which earns one more read. -/
def actOnNext (bs : List Byte) (s : State) : State := followNext (recordAddr (BitVec.ofNat 64 (field bs 0 8))) s

/-- NEXT_FIELD_READ_COMPLETE (R27). -/
def execNextFieldReadComplete (s : State) : Host.Outcome State Fault Refusal :=
  match s.reader.work with
  | .nextRead x =>
    match transferBytes s.port x with
    | some bs => if reading s then .next (actOnNext bs (discard x s)) else .next s
    | none => .next s
  | .idle | .headerRead _ | .bodyFixed _ _ _ | .bodyList _ _ _ _ | .held _ _ _ | .editing _ _ | .blockRead _ _ _
  | .configuring _ _ _ => .next s

/-- RECORD_READ_FAILED (R36): the record is left untouched and the engine halts with cause RECORD_READ. -/
def execRecordReadFailed (s : State) : Host.Outcome State Fault Refusal :=
  match readerXfer s.reader.work with
  | some x => if transferFailed s.port x && working s then .next (halt .recordRead s) else .next s
  | none => .next s

/-! ## Admission and closes -/

/-- BAND_ADMIT (R28, R43): the held band joins the window when it has room, the reader follows its NEXT, and
lines whose targets are already reached cross (R19). -/
def execBandAdmit (s : State) : Host.Outcome State Fault Refusal :=
  match s.reader.work with
  | .held (.band b) next false =>
    if reading s then
      if s.layout.isNone then .next (halt .noLayout s)
      else if s.win.bands.length < Config.windowMax then .next (settleAll (followNext next (placeBand b s)))
      else .next s
    else .next s
  | .held (.band _) _ true | .held (.edit _) _ _ | .held (.layout _) _ _ | .idle | .headerRead _ | .bodyFixed _ _ _
  | .bodyList _ _ _ _ | .nextRead _ | .editing _ _ | .blockRead _ _ _ | .configuring _ _ _ => .next s

/-- BAND_CLOSE (R58, R59, R64). -/
def execBandClose (s : State) : Host.Outcome State Fault Refusal :=
  match s.win.bands with
  | [] => .next s
  | b :: _ =>
    match closeCode s b with
    | some code => .next (closeHead code b s)
    | none => .next s

/-! ## Nozzle edits (R87 to R100) -/

/-- The engine states in which an edit being carried out completes (R23, R35). -/
def editRuns (s : State) : Bool :=
  match s.ctl.engine with
  | .running | .suspended | .draining | .aborting => true
  | .stopped | .halted => false

/-- NOZZLE_EDIT_STAGED (R90). -/
def execNozzleEditStaged (s : State) : Host.Outcome State Fault Refusal :=
  match s.reader.work with
  | .editing e next => if editRuns s && !e.immediate then .next (carryOutEdit e next s) else .next s
  | .idle | .headerRead _ | .bodyFixed _ _ _ | .bodyList _ _ _ _ | .nextRead _ | .held _ _ _ | .blockRead _ _ _
  | .configuring _ _ _ => .next s

/-- NOZZLE_EDIT_IMMEDIATE (R94), once no hold on the head or a partner stands (R97). -/
def execNozzleEditImmediate (s : State) : Host.Outcome State Fault Refusal :=
  match s.reader.work with
  | .editing e next =>
    if editRuns s && e.immediate && !editWaits s e then .next (carryOutEdit e next s) else .next s
  | .idle | .headerRead _ | .bodyFixed _ _ _ | .bodyList _ _ _ _ | .nextRead _ | .held _ _ _ | .blockRead _ _ _
  | .configuring _ _ _ => .next s

/-- The promotion of head `h`'s STAGED set `st` (R92). -/
def promoteSet (h : HeadId) (st : StagedSet) (s : State) : State :=
  s.setMap h { s.map h with active := st.set, staged := none }

/-- A staged edit held in WAITING_EDIT for head `h` is carried out at the promotion (R92). -/
def takeWaitingEdit (h : HeadId) (s : State) : State :=
  match s.reader.work with
  | .held (.edit e) next false =>
    if reading s ∧ e.head = h then carryOutEdit e next (setCond .reading s) else s
  | .held (.edit _) _ true | .held (.band _) _ _ | .held (.layout _) _ _ | .idle | .headerRead _ | .bodyFixed _ _ _
  | .bodyList _ _ _ _ | .nextRead _ | .editing _ _ | .blockRead _ _ _ | .configuring _ _ _ => s

/-- STAGED_PROMOTION (R92). In HALTED the Nozzle Map Store changes no set (R183; log entry 16). -/
def execStagedPromotion (h : HeadId) (s : State) : Host.Outcome State Fault Refusal :=
  match (s.map h).staged with
  | some st => if st.waiting = 0 ∧ s.ctl.engine ≠ .halted then .next (takeWaitingEdit h (promoteSet h st s)) else .next s
  | none => .next s

/-! ## Layout records (R30, R67 to R81) -/

/-- LAYOUT_TAKEN (R30, R67, R68): the window is empty, every STAGED set promoted, and the block read begins. -/
def execLayoutTaken (s : State) : Host.Outcome State Fault Refusal :=
  match s.reader.work with
  | .held (.layout l) next false =>
    if reading s && s.win.bands.isEmpty && noneStaged s then
      .next (startTransfer none l.block Config.layoutBlockBytes
        (setWork (.blockRead s.port.nextXfer l next) (setCond .reading s)))
    else .next s
  | .held (.layout _) _ true | .held (.band _) _ _ | .held (.edit _) _ _ | .idle | .headerRead _ | .bodyFixed _ _ _
  | .bodyList _ _ _ _ | .nextRead _ | .editing _ _ | .blockRead _ _ _ | .configuring _ _ _ => .next s

/-- The service state a head takes from its new entry (R79). -/
def newService (e : Option HeadEntry) : Service :=
  match e with
  | none => .absent
  | some e => if e.inService then .configuring else .outOfService

/-- A head link at the application of a layout (R79). A resend or repeat that was called for and has not begun is
dropped with the queued requests: R79 lets even a frame in flight call for none any more (log entry 18, DEDUCED). -/
def appliedLink (e : Option HeadEntry) (d : HeadLink) : HeadLink :=
  { d with
    service := newService e, returnBand := none, ready := false, timer := none, queue := [], again := none, config := none
    frame := d.frame.map fun f => { f with stale := true } }

/-- The indices a present head keeps at application (R78). -/
def trimmedMap (l : Layout) (h : HeadId) (m : NozzleMap) : NozzleMap :=
  match l.heads[h] with
  | some e => { m with active := m.active.filter fun i => decide (i < e.nozzles) }
  | none => m

/-- A channel at the application of a layout: as after chip reset but for its last fire tick. A strobe pulse in
progress runs on while the head is present; a channel no longer in the channel list drives no strobe (R73, R76,
R151). -/
def appliedChannel (e : Option HeadEntry) (ch : Channel) : Channel :=
  { Channel.reset with lastFire := ch.lastFire, pulseEnd := if e.isSome then ch.pulseEnd else none }

/-- Some index is removed by the trimming (R78). -/
def trims (l : Layout) (s : State) : Bool := allHeads.any fun h => decide (trimmedMap l h (s.map h) ≠ s.map h)

/-- An accepted block is applied in one step, and the configurations begin (R76, R78 to R80). -/
def applyLayout (l : Layout) (s : State) : State :=
  let s1 := s.withLayout (some l)
  let s2 := s1.withMaps (tabulate 16 fun h => trimmedMap l h (s.map h))
  let s3 := s2.withChans (tabulate 32 fun c => appliedChannel (chanEntry s1.layout c) (s.chan c))
  let s4 := s3.withHeads (tabulate 16 fun h => appliedLink l.heads[h] (s.head h))
  allHeads.foldl (fun s h => if (s.head h).service = .configuring then beginConfiguration h s else s) s4

/-- The block `bs` of layout record `l` is judged, and rejected or applied (R70, R71, R76). -/
def judgeBlock (l : LayoutRecord) (next : Addr) (bs : List Byte) (s : State) : State :=
  let b := layoutBlock bs
  match judge b with
  | some reason => halt .layout (closeLayout l .rejected (BitVec.ofNat 8 reason) 0 (setWork .idle s))
  | none =>
    let lay := layoutOf b
    setWork (.configuring l (layoutFlags b (trims lay s)) next) (setCond .configuringLayout (applyLayout lay s))

/-- LAYOUT_BLOCK_READ_COMPLETE (R70). -/
def execLayoutBlockReadComplete (s : State) : Host.Outcome State Fault Refusal :=
  match s.reader.work with
  | .blockRead x l next =>
    match transferBytes s.port x with
    | some bs => if working s then .next (judgeBlock l next bs (discard x s)) else .next s
    | none => .next s
  | .idle | .headerRead _ | .bodyFixed _ _ _ | .bodyList _ _ _ _ | .nextRead _ | .held _ _ _ | .editing _ _
  | .configuring _ _ _ => .next s

/-- LAYOUT_RECORD_CLOSE (R80, R81): no head is CONFIGURING any more. -/
def execLayoutRecordClose (s : State) : Host.Outcome State Fault Refusal :=
  match s.reader.work with
  | .configuring l flags next =>
    if working s && noneConfiguring s then .next (followNext next (closeLayout l .done flags (parkMask s) s))
    else .next s
  | .idle | .headerRead _ | .bodyFixed _ _ _ | .bodyList _ _ _ _ | .nextRead _ | .held _ _ _ | .editing _ _
  | .blockRead _ _ _ => .next s

/-! ## Failed write-back (R38) -/

/-- The writes `ws` of a failed unit stand in the outbox at the unit's place, and the places of the units that
failed after it move on (R41). -/
def postAt (place : Nat) (ws : List (Addr × Word32)) (p : MemoryPort) : MemoryPort :=
  let posts := postedWrites ws
  { p with outbox := p.outbox.take place ++ posts ++ p.outbox.drop place
           failed := p.failed.map fun f => { f with place := f.place + posts.length } }

/-- WRITEBACK_UNIT_FAILED (R38): the oldest failed unit is reported. The writes before the one that failed, never
the control word, had been issued, ahead of those of every unit handed over later (R41). In ABORTING and HALTED
WRITEBACK_FAILED is raised; otherwise the engine halts with cause WRITEBACK. -/
def execWritebackUnitFailed (issued : Nat) (s : State) : Host.Outcome State Fault Refusal :=
  match s.port.failed with
  | [] => .next s
  | f :: fs =>
    let writes := f.unit.writes
    let s1 := s.withPort
      (postAt f.place (writes.take (min issued (writes.length - 1))) { s.port with failed := fs })
    if working s1 then .next (halt .writeback s1)
    else if frozen s1 then .next (raise .writebackFailed s1)
    else .next s1

end Sys2Proof.Machine
end

