-- ==== Sys2Proof/Machine/Links.lean ====
section
/-! DEFINITION. The steps of the Memory Port, the Line Composition Unit and the Head Link Controllers:
READ_COMPLETION to QUERY_TIMER_EXPIRY, PCIE_LINK_DOWN and PCIE_LINK_UP; with the output pins (chapters 2, 6
and 8). -/

namespace Sys2Proof.Machine

/-! ## Read requests (R39, R40) -/

/-- READ_COMPLETION (R40). Bytes are kept until the request has all of them; an error completion frees the tag
and fails the transfer; a completion for a tag that is free or held after a timeout is thrown away, and so is
the data of a discarded transfer. -/
def execReadCompletion (tag : TagId) (ok : Bool) (data : List Byte) (s : State) : Host.Outcome State Fault Refusal :=
  match s.port.tags[tag] with
  | .free => .next s
  | .hold _ => .next s
  | .request x i a len got issued =>
    if ok then
      let got1 := got ++ data.take (len - got.length)
      if len ≤ got1.length then .next (pump (s.withPort (completeRequest x i got1 (setTag tag .free s.port))))
      else .next (s.withPort (setTag tag (.request x i a len got1 issued) s.port))
    else .next (pump (s.withPort (failTransfer x (setTag tag .free s.port))))

/-- READ_REQUEST_TIMEOUT (R40): 5,000 ticks after its issue the request fails, and its tag is held for 50,000
more. -/
def execReadRequestTimeout (tag : TagId) (s : State) : Host.Outcome State Fault Refusal :=
  match s.port.tags[tag] with
  | .free => .next s
  | .hold _ => .next s
  | .request x _ _ _ _ issued =>
    let s1 := advanceTo (issued + Config.readTimeout) s
    .next (s1.withPort (failTransfer x (setTag tag (.hold (s1.tick + Config.tagHold)) s1.port)))

/-- TAG_HOLD_EXPIRY (R40). -/
def execTagHoldExpiry (tag : TagId) (s : State) : Host.Outcome State Fault Refusal :=
  match s.port.tags[tag] with
  | .free => .next s
  | .request _ _ _ _ _ _ => .next s
  | .hold ends =>
    let s1 := advanceTo ends s
    .next (pump (s1.withPort (setTag tag .free s1.port)))

/-- PCIE_LINK_DOWN (R40, R41). -/
def execPcieLinkDown (s : State) : Host.Outcome State Fault Refusal := .next (s.withPort { s.port with linkUp := false })

/-- PCIE_LINK_UP (R41). -/
def execPcieLinkUp (s : State) : Host.Outcome State Fault Refusal := .next (s.withPort { s.port with linkUp := true })

/-! ## Fetch and composition (R105 to R113) -/

/-- The line and target of a channel that requests a fetch (R105). -/
def fetchRequest (s : State) (c : ChanId) : Option (LineRef × Nat) :=
  let ch := s.chan c
  match ch.compose with
  | none => none
  | some r =>
    match target s c r with
    | none => none
    | some t =>
      if working s && serves s (headOf c) r.band && ch.live.isNone && decide (ch.queue.length < Config.lineQueueMax)
      then some (r, t) else none

/-- The request the arbiter grants: the earliest target, the lowest channel on equal targets (R109). -/
def bestRequest (s : State) : Option (ChanId × LineRef × Nat) :=
  allChans.foldl
    (fun best c =>
      match fetchRequest s c with
      | none => best
      | some (r, t) =>
        match best with
        | some (_, _, t') => if t < t' then some (c, r, t) else best
        | none => some (c, r, t))
    none

/-- The address and length of the fetch of a line for a channel (R106, R107). -/
def fetchSpan (s : State) (c : ChanId) (r : LineRef) : Addr × Nat :=
  match chanEntry s.layout c, findBand s r.band with
  | some e, some b =>
    match b.sources.find? fun p => p.plane == e.plane with
    | some p => (fetchAddr p r.line e.firstColumn, fetchLen e.firstColumn e.nozzles)
    | none => (0, 0)
  | _, _ => (0, 0)

/-- The engine is granted to a channel's request: a live composition begins and its fetch is issued (R109,
R110). -/
def grantFetch (c : ChanId) (r : LineRef) (s : State) : State :=
  let span := fetchSpan s c r
  startTransfer (some (c, r)) span.1 span.2
    (s.setChan c { s.chan c with live := some { ref := r, xfer := s.port.nextXfer } })

/-- FETCH_GRANT (R109): the engine is free, three tags are free and some channel requests. -/
def execFetchGrant (s : State) : Host.Outcome State Fault Refusal :=
  if s.port.grant.isNone && decide (Config.fetchTagReserve ≤ freeTags s.port) then
    match bestRequest s with
    | some (c, r, _) => .next (grantFetch c r s)
    | none => .next s
  else .next s

/-- A head as composition of line `r` reads it (R115). -/
def seamHead (s : State) (r : LineRef) (h : HeadId) (e : HeadEntry) : SeamHead :=
  { entry := e, dead := ownershipVersion (s.map h) s.win.bands r, serves := serves s h r.band }

/-- The page line of a line (R46). -/
def pageLineOf (s : State) (r : LineRef) : Nat :=
  match findBand s r.band with
  | some b => b.firstLine + r.line
  | none => r.line

/-- The line a channel composes from the fetched bytes (R115 to R123). -/
def composedLine (s : State) (c : ChanId) (r : LineRef) (l : Layout) (e : HeadEntry) (bytes : List Byte) : ComposedLine :=
  let h := headOf c
  let n := pageLineOf s r
  let columns := (List.range e.nozzles).map fun i => e.firstColumn + i
  let left := (partner true s.layout h).map fun g => seamHead s r g.1 g.2
  let right := (partner false s.layout h).map fun g => seamHead s r g.1 g.2
  let source := columns.map (sourceLevel bytes e.firstColumn)
  let owned := columns.map (ownsColumn l.tile n (seamHead s r h e) left right)
  let out := composeLevels source owned (mapVersion (s.map h) s.win.bands r.band)
  { ref := r, pageLine := n, levels := rowLevels (rowOf c) out.levels, dataFault := false, lost := rowLost (rowOf c) out }

/-- A data-fault line: every level 0, nothing lost (R112). -/
def dataFaultLine (s : State) (r : LineRef) (e : HeadEntry) : ComposedLine :=
  { ref := r, pageLine := pageLineOf s r, levels := List.replicate (e.nozzles / 2) 0, dataFault := true, lost := 0 }

/-- A composed line joins the tail of its channel's queue, and the compose place moves on (R104, R111). -/
def placeLine (c : ChanId) (x : ComposedLine) (s : State) : State :=
  let ch := s.chan c
  requestShip c (adjustCompose c
    (s.setChan c { ch with queue := ch.queue ++ [x], compose := lineAfter s c x.ref }))

/-- The outcome of a line fetch with its bytes, or none for a failure. Its transfer ends. A composition that is
live and whose head serves the band places its line; an orphan, or one no longer wanted, places nothing (R111
to R113). -/
def endFetch (x : Nat) (c : ChanId) (r : LineRef) (bytes : Option (List Byte)) (s : State) : State :=
  let s1 := discard x s
  if (s1.chan c).live = some { ref := r, xfer := x } then
    let s2 := s1.setChan c { s1.chan c with live := none }
    if serves s2 (headOf c) r.band && decide ((s2.chan c).compose = some r) then
      match s2.layout, chanEntry s2.layout c with
      | some l, some e =>
        match bytes with
        | some bs => placeLine c (composedLine s2 c r l e bs) s2
        | none => placeLine c (dataFaultLine s2 r e) s2
      | _, _ => s2
    else s2
  else s1

/-- FETCH_COMPLETE (R111). -/
def execFetchComplete (xfer : Nat) (s : State) : Host.Outcome State Fault Refusal :=
  match (findTransfer s.port xfer).bind Transfer.fetch, transferBytes s.port xfer with
  | some (c, r), some bs => .next (endFetch xfer c r (some bs) s)
  | _, _ => .next s

/-- FETCH_FAIL (R112). -/
def execFetchFail (xfer : Nat) (s : State) : Host.Outcome State Fault Refusal :=
  match (findTransfer s.port xfer).bind Transfer.fetch with
  | some (c, r) => if transferFailed s.port xfer then .next (endFetch xfer c r none s) else .next s
  | none => .next s

/-! ## Frames (R160, R161, R169) -/

/-- The entries of a CONFIG frame for the parameters due (R155). -/
def configEntries (e : HeadEntry) (due : List (Fin 5)) : List (Byte × Byte) :=
  due.map fun i => (BitVec.ofNat 8 (i.val + 1), paramValue e i)

/-- The shadow when a CONFIG frame begins: each parameter it carries takes its value, unconfirmed (R169). -/
def sentShadow (entries : List (Byte × Byte)) (v : Vector ShadowParam 5) : Vector ShadowParam 5 :=
  tabulate 5 fun i =>
    match entries.find? fun e => e.1 == BitVec.ofNat 8 (i.val + 1) with
    | some e => { value := e.2, confirmed := false }
    | none => v[i]

/-- A frame begins: the link is SENDING until its end, and a CONFIG frame's parameters are entered in the shadow
(R160, R169). -/
def beginFrame (h : HeadId) (f : Frame) (s : State) : State :=
  let d := s.head h
  let shadow := match f.body with
    | .config es => sentShadow es d.shadow
    | .line _ _ _ | .query => d.shadow
  s.setHead h { d with link := .sending (s.tick + frameTicks f.body f.lanes), frame := some f, again := none, shadow := shadow }

/-- LANES in force for a head (R77). -/
def lanesOf (s : State) (h : HeadId) : Nat :=
  match entryOf s.layout h with
  | some e => e.lanes
  | none => 1

/-- The frame of a configuration, chosen as it begins: CONFIG with what is due, QUERY when nothing is (R169). -/
def configFrame (s : State) (h : HeadId) : Frame :=
  let body := match entryOf s.layout h with
    | some e => if (dueParams s h).isEmpty then FrameBody.query else .config (configEntries e (dueParams s h))
    | none => .query
  { body := body, lanes := lanesOf s h, begun := s.tick, withdrawn := false, again := false, forConfig := true, stale := false }

/-- A parked head's QUERY frame (R165). -/
def queryFrame (s : State) (h : HeadId) : Frame :=
  { body := .query, lanes := lanesOf s h, begun := s.tick, withdrawn := false, again := false, forConfig := false, stale := false }

/-- A ship request's frame begins, and its line enters the slot in transit (R134, R160). -/
def beginLine (h : HeadId) (row : Row) (s : State) : State :=
  let c := chanOf h row
  match nextComposed (s.chan c) with
  | some l =>
    beginFrame h
      { body := .line row l.ref l.levels, lanes := lanesOf s h, begun := s.tick, withdrawn := false, again := false,
        forConfig := false, stale := false }
      (s.setChan c { s.chan c with slot := .transit l.ref, shipRequest := false })
  | none => s.setChan c { s.chan c with shipRequest := false }

/-- The oldest queued request that may be served: ship requests only while channels work (R160). -/
def servable (s : State) (q : LinkRequest) : Bool :=
  match q.kind with
  | .config | .query => true
  | .lineA | .lineB => working s

/-- A queued request's frame begins (R160). -/
def beginRequest (h : HeadId) (q : LinkRequest) (s : State) : State :=
  let s1 := s.setHead h { s.head h with queue := removeKind q.kind (s.head h).queue }
  match q.kind with
  | .lineA => beginLine h .a s1
  | .lineB => beginLine h .b s1
  | .config | .query => beginFrame h (if (s1.head h).config.isSome then configFrame s1 h else queryFrame s1 h) s1

/-- FRAME_BEGIN (R160): with the link IDLE a resend or repeat begins, else the oldest servable request. -/
def execFrameBegin (h : HeadId) (s : State) : Host.Outcome State Fault Refusal :=
  let d := s.head h
  match d.link with
  | .idle =>
    match d.again with
    | some f => .next (beginFrame h { f with begun := s.tick, lanes := lanesOf s h } s)
    | none =>
      match d.queue.find? (servable s) with
      | some q => .next (beginRequest h q s)
      | none => .next s
  | .sending _ | .answerWait _ | .resetting _ => .next s

/-- FRAME_END (R161): the last bit has been sent. -/
def execFrameEnd (h : HeadId) (s : State) : Host.Outcome State Fault Refusal :=
  match (s.head h).link with
  | .sending t =>
    let s1 := advanceTo t s
    .next (s1.setHead h { s1.head h with link := .answerWait t })
  | .idle | .answerWait _ | .resetting _ => .next s

/-- LINK_RESET_END (R161): the pulse ends and the link is IDLE. -/
def execLinkResetEnd (h : HeadId) (s : State) : Host.Outcome State Fault Refusal :=
  match (s.head h).link with
  | .resetting t =>
    let s1 := advanceTo t s
    .next (s1.setHead h { s1.head h with link := .idle })
  | .idle | .sending _ | .answerWait _ => .next s

/-! ## Outcomes (R157, R162, R163, R165, R170) -/

/-- A LINE frame answered READY: its line becomes the shipped line, and a channel DEFERRED on it tests readiness
(R136, R162). -/
def shipLine (c : ChanId) (r : LineRef) (s : State) : State :=
  if (s.chan c).slot = .transit r then
    let s1 := s.setChan c { s.chan c with slot := .shipped r }
    if chanState s1 c = .deferred ∧ nextShipped (s1.chan c) = true ∧ periodOver s1 c = true then fireDeferred c s1 else s1
  else s

/-- The outcome of a LINE frame, resent or not, withdrawn or not (R162, R163). One that a layout overtook does
nothing (R79). -/
def lineOutcome (h : HeadId) (f : Frame) (row : Row) (r : LineRef) (o : FrameOutcome) (s : State) : State :=
  if f.stale then s
  else match o with
    | .ready => if f.withdrawn then s else shipLine (chanOf h row) r s
    | .checkError =>
      if f.withdrawn then s
      else if f.again then park h true s
      else if frozen s then s
      else s.setHead h { s.head h with again := some { f with again := true } }
    | .timeout => park h true s
    | .notReady => park h false s
    | .overtemp => park h false s

/-- The shadow after the answer to a CONFIG frame: the first `k` parameters become confirmed (R170). -/
def confirmedShadow (entries : List (Byte × Byte)) (k : Nat) (v : Vector ShadowParam 5) : Vector ShadowParam 5 :=
  tabulate 5 fun i =>
    if (entries.take k).any fun e => e.1 == BitVec.ofNat 8 (i.val + 1) then { v[i] with confirmed := true } else v[i]

/-- A configuration succeeds: the head is IN_SERVICE, a return band kept unless it has left the window (R167,
R168, R170). -/
def configSucceeds (h : HeadId) (s : State) : State :=
  let d := s.head h
  s.setHead h
    { d with service := .inService, config := none,
             returnBand := d.returnBand.bind fun b => if (findBand s b).isSome then some b else none }

/-- The repeat frame of a configuration: the parameters of the frame still unconfirmed, or a QUERY when none
remains (R170). -/
def repeatFrame (f : Frame) (unconfirmed : List (Byte × Byte)) : Frame :=
  { f with body := if unconfirmed.isEmpty then .query else .config unconfirmed, again := true }

/-- The outcome of a configuration's frame; `complete` says that READY covered every entry, `unconfirmed` lists
the entries the answer did not cover (R170). -/
def configOutcome (h : HeadId) (f : Frame) (o : FrameOutcome) (complete : Bool) (unconfirmed : List (Byte × Byte))
    (s : State) : State :=
  match (s.head h).config with
  | none => s
  | some repeatUsed =>
    let again : State :=
      if repeatUsed then park h true s
      else s.setHead h { s.head h with config := some true, again := some (repeatFrame f unconfirmed) }
    match o with
    | .ready => if complete then configSucceeds h s else again
    | .checkError => again
    | .timeout => park h true s
    | .notReady => park h false s
    | .overtemp => park h false s

/-- The outcome of a frame is taken, `count` being the acknowledgement's count (R157, R161). -/
def takeOutcome (h : HeadId) (o : FrameOutcome) (count : Nat) (s : State) : State :=
  let d := s.head h
  let s1 := s.setHead h { d with link := .idle, frame := none }
  match d.frame with
  | none => s1
  | some f =>
    match f.body with
    | .line row r _ => lineOutcome h f row r o s1
    | .config es =>
      let k := if o = .timeout then 0 else min count es.length
      let s2 := s1.setHead h { s1.head h with shadow := confirmedShadow es k (s1.head h).shadow }
      if f.stale then s2 else configOutcome h f o (decide (k = es.length)) (es.drop k) s2
    | .query =>
      if f.stale then s1
      else if f.forConfig then configOutcome h f o true [] s1
      else if d.service = .parked then s1.setHead h { s1.head h with ready := decide (o = .ready) }
      else s1

/-- LINK_RETURN is high at tick `t`: something sent on the lane has a 1 bit there; the lane is held low otherwise
(R197). -/
def laneHigh (lane : List LaneReturn) (t : Nat) : Bool :=
  lane.any fun r => decide (r.bit0 ≤ t) && r.byte.getLsbD (t - r.bit0)

/-- The lane is high at a tick, having been low at the tick before. -/
def laneRises (lane : List LaneReturn) : Nat → Bool
  | 0 => laneHigh lane 0
  | t + 1 => laneHigh lane (t + 1) && !laneHigh lane t

/-- The tick of bit 0 of the acknowledgement to the frame that ended at tick `since`: the first tick from there on
at which the lane is high, a level that was high before having fallen low first; none when it comes too late for the
last bit to arrive by the window's 200th tick (R157, R197). -/
def ackBegins (lane : List LaneReturn) (since : Nat) : Option Nat :=
  ((List.range (Config.answerWindow - Config.ackTicks + 1)).map (since + ·)).find? (laneRises lane)

/-- The byte of the levels of a tick and the seven ticks that follow it, bit 0 first (R197). -/
def laneByte (lane : List LaneReturn) (t : Nat) : Byte :=
  (BitVec.ofBoolListLE ((List.range 8).map fun i => laneHigh lane (t + i))).setWidth 8

/-- The acknowledgement whose bit 0 came at tick `t` is received with its last bit, and its outcome is taken (R157,
R197). -/
def receiveAck (h : HeadId) (t : Nat) (s : State) : State :=
  let b := laneByte (s.head h).lane t
  takeOutcome h (ackStatus b) (ackCount b) (advanceTo (t + Config.ackTicks) s)

/-- ACK_RECEIVED (R157, R197): the head sends eight levels on its return lane. An awaited acknowledgement that the
lane has carried whole by their last tick is received; every other level is thrown away, and one that begins an
acknowledgement later among them waits for the rest of it (Clock.lean). -/
def execAckReceived (h : HeadId) (ack : LaneReturn) (s : State) : Host.Outcome State Fault Refusal :=
  let lane := (s.head h).lane ++ [ack]
  let s1 := s.setHead h { s.head h with lane := lane }
  match (s.head h).link with
  | .answerWait since =>
    match ackBegins lane since with
    | some t => if t ≤ ack.bit0 then .next (receiveAck h t s1) else .next s1
    | none => .next s1
  | .idle | .sending _ | .resetting _ => .next s1

/-- The frame that ended at tick `since` cannot time out: the lane carries its acknowledgement, and the last bit
comes before the window's 200th tick (R157, R177). -/
def ackInTime (lane : List LaneReturn) (since : Nat) : Bool :=
  match ackBegins lane since with
  | some t => decide (t + Config.ackTicks < since + Config.answerWindow)
  | none => false

/-- ACK_TIMEOUT (R157): 200 ticks after the frame's end the frame has timed out, unless its acknowledgement has come
before. -/
def execAckTimeout (h : HeadId) (s : State) : Host.Outcome State Fault Refusal :=
  match (s.head h).link with
  | .answerWait since =>
    if ackInTime (s.head h).lane since then .next s
    else .next (takeOutcome h .timeout 0 (advanceTo (since + Config.answerWindow) s))
  | .idle | .sending _ | .resetting _ => .next s

/-- A QUERY request of the head is queued or in flight (R165). -/
def queryPending (d : HeadLink) : Bool :=
  d.queue.any (fun q => decide (q.kind = .query)) ||
  match d.frame with
  | some f => decide (f.body = .query)
  | none => false

/-- QUERY_TIMER_EXPIRY (R165): a parked head's timer expires and runs on for 100,000 ticks; a QUERY request
joins the queue unless one is queued or in flight. -/
def execQueryTimerExpiry (h : HeadId) (s : State) : Host.Outcome State Fault Refusal :=
  match (s.head h).timer with
  | none => .next s
  | some t =>
    if (s.head h).service = .parked then
      let s1 := advanceTo t s
      let s2 := s1.setHead h { s1.head h with timer := some (t + Config.queryInterval) }
      .next (if queryPending (s2.head h) then s2 else addRequest h .query s2)
    else .next s

/-! ## Output pins (Signals, R139, R153, R161) -/

/-- FIRE_A[h] and FIRE_B[h]: the row's strobe (R139), not asserted for a head that is absent (R73). -/
def firePin (s : State) (c : ChanId) : Bool :=
  match (s.chan c).pulseEnd with
  | some t => decide (s.tick < t) && (chanEntry s.layout c).isSome
  | none => false

/-- LINK_DATA[h][lane]: the frame in flight while it is being sent, low otherwise (R153). -/
def dataPin (s : State) (h : HeadId) (lane : Nat) : Bool :=
  match (s.head h).link, (s.head h).frame with
  | .sending _, some f => laneLevel f lane s.tick
  | _, _ => false

/-- LINK_RESET[h] (R161). -/
def resetPin (s : State) (h : HeadId) : Bool :=
  match (s.head h).link with
  | .resetting _ => true
  | .idle | .sending _ | .answerWait _ => false

end Sys2Proof.Machine
end

