-- ==== Sys2Proof/Machine/Dispatch.lean ====
section
/-! DEFINITION. One arm per constructor of Instr: the command's meaning. -/

namespace Sys2Proof.Machine

/-- A command's effect on everything but the queue. -/
def exec (i : Instr) (s : State) : Host.Outcome State Fault Refusal :=
  match i with
  | .forwardCount => Sys2Proof.Machine.execForwardCount s
  | .backwardCount => Sys2Proof.Machine.execBackwardCount s
  | .illegalTransition => Sys2Proof.Machine.execIllegalTransition s
  | .strobePulseEnd c => Sys2Proof.Machine.execStrobePulseEnd c s
  | .periodEnd c => Sys2Proof.Machine.execPeriodEnd c s
  | .productEdge => Sys2Proof.Machine.execProductEdge s
  | .start => Sys2Proof.Machine.execStart s
  | .stop => Sys2Proof.Machine.execStop s
  | .abort => Sys2Proof.Machine.execAbort s
  | .engineReset => Sys2Proof.Machine.execEngineReset s
  | .poke => Sys2Proof.Machine.execPoke s
  | .pokeRegisterWrite value bytes => Sys2Proof.Machine.execPokeRegisterWrite value bytes s
  | .unknownCommandCode value bytes => Sys2Proof.Machine.execUnknownCommandCode value bytes s
  | .listHeadWrite high value bytes => Sys2Proof.Machine.execListHeadWrite high value bytes s
  | .eventsWrite value bytes => Sys2Proof.Machine.execEventsWrite value bytes s
  | .eventEnableWrite value bytes => Sys2Proof.Machine.execEventEnableWrite value bytes s
  | .currentRecordLowRead bytes => Sys2Proof.Machine.execCurrentRecordLowRead bytes s
  | .currentRecordHighRead bytes => Sys2Proof.Machine.execCurrentRecordHighRead bytes s
  | .registerWrite offset value bytes => Sys2Proof.Machine.execRegisterWrite offset value bytes s
  | .chipReset encA encB product => Sys2Proof.Machine.execChipReset encA encB product s
  | .headerReadComplete => Sys2Proof.Machine.execHeaderReadComplete s
  | .bodyReadComplete => Sys2Proof.Machine.execBodyReadComplete s
  | .nextFieldReadComplete => Sys2Proof.Machine.execNextFieldReadComplete s
  | .recordReadFailed => Sys2Proof.Machine.execRecordReadFailed s
  | .bandAdmit => Sys2Proof.Machine.execBandAdmit s
  | .nozzleEditStaged => Sys2Proof.Machine.execNozzleEditStaged s
  | .nozzleEditImmediate => Sys2Proof.Machine.execNozzleEditImmediate s
  | .stagedPromotion h => Sys2Proof.Machine.execStagedPromotion h s
  | .layoutTaken => Sys2Proof.Machine.execLayoutTaken s
  | .layoutBlockReadComplete => Sys2Proof.Machine.execLayoutBlockReadComplete s
  | .layoutRecordClose => Sys2Proof.Machine.execLayoutRecordClose s
  | .bandClose => Sys2Proof.Machine.execBandClose s
  | .writebackUnitFailed issued => Sys2Proof.Machine.execWritebackUnitFailed issued s
  | .drainEnd => Sys2Proof.Machine.execDrainEnd s
  | .abortEnd => Sys2Proof.Machine.execAbortEnd s
  | .readCompletion tag ok data => Sys2Proof.Machine.execReadCompletion tag ok data s
  | .readRequestTimeout tag => Sys2Proof.Machine.execReadRequestTimeout tag s
  | .tagHoldExpiry tag => Sys2Proof.Machine.execTagHoldExpiry tag s
  | .fetchGrant => Sys2Proof.Machine.execFetchGrant s
  | .fetchComplete xfer => Sys2Proof.Machine.execFetchComplete xfer s
  | .fetchFail xfer => Sys2Proof.Machine.execFetchFail xfer s
  | .frameBegin h => Sys2Proof.Machine.execFrameBegin h s
  | .frameEnd h => Sys2Proof.Machine.execFrameEnd h s
  | .ackReceived h ack => Sys2Proof.Machine.execAckReceived h ack s
  | .ackTimeout h => Sys2Proof.Machine.execAckTimeout h s
  | .linkResetEnd h => Sys2Proof.Machine.execLinkResetEnd h s
  | .queryTimerExpiry h => Sys2Proof.Machine.execQueryTimerExpiry h s
  | .pcieLinkDown => Sys2Proof.Machine.execPcieLinkDown s
  | .pcieLinkUp => Sys2Proof.Machine.execPcieLinkUp s
  | .productDetectOtherChange => Sys2Proof.Machine.execProductDetectOtherChange s

end Sys2Proof.Machine
end

