-- ==== Sys2Proof/Machine/Clock.lean ====
section
/-! DEFINITION. What the part does of itself when no command waits: its next own step that is due and has an
effect, or else a tick of the reference clock (log entry 1). -/

namespace Sys2Proof.Machine

/-- The tick at which a time-driven step falls due; none for a step that waits for no tick, and for one whose
time is not running. -/
def dueTick (i : Instr) (s : State) : Option Nat :=
  match i with
  | .strobePulseEnd c => (s.chan c).pulseEnd
  | .periodEnd c => (s.chan c).lastFire.map (· + periodOf s c)
  | .frameEnd h => match (s.head h).link with
    | .sending t => some t
    | .idle | .answerWait _ | .resetting _ => none
  | .ackReceived _ ack => some (ack.bit0 + Config.ackTicks)
  | .ackTimeout h => match (s.head h).link with
    | .answerWait t => some (t + Config.answerWindow)
    | .idle | .sending _ | .resetting _ => none
  | .linkResetEnd h => match (s.head h).link with
    | .resetting t => some t
    | .idle | .sending _ | .answerWait _ => none
  | .queryTimerExpiry h => (s.head h).timer
  | .readRequestTimeout t => match s.port.tags[t] with
    | .request _ _ _ _ _ issued => some (issued + Config.readTimeout)
    | .free | .hold _ => none
  | .tagHoldExpiry t => match s.port.tags[t] with
    | .hold ends => some ends
    | .free | .request _ _ _ _ _ _ => none
  | .forwardCount | .backwardCount | .illegalTransition | .productEdge | .start | .stop | .abort | .engineReset
  | .poke | .pokeRegisterWrite _ _ | .unknownCommandCode _ _ | .listHeadWrite _ _ _ | .eventsWrite _ _
  | .eventEnableWrite _ _ | .currentRecordLowRead _ | .currentRecordHighRead _ | .registerWrite _ _ _
  | .chipReset _ _ _ | .headerReadComplete | .bodyReadComplete | .nextFieldReadComplete | .recordReadFailed
  | .bandAdmit | .nozzleEditStaged | .nozzleEditImmediate | .stagedPromotion _ | .layoutTaken
  | .layoutBlockReadComplete | .layoutRecordClose | .bandClose | .writebackUnitFailed _ | .drainEnd | .abortEnd
  | .readCompletion _ _ _ | .fetchGrant | .fetchComplete _ | .fetchFail _ | .frameBegin _
  | .pcieLinkDown | .pcieLinkUp | .productDetectOtherChange => none

/-- The acknowledgement that head `h` has begun on its lane, to be received at its last bit (R197). -/
def ackOnLane (s : State) (h : HeadId) : Option Instr :=
  match (s.head h).link with
  | .answerWait since =>
    (ackBegins (s.head h).lane since).map fun t => .ackReceived h { bit0 := t, byte := laneByte (s.head h).lane t }
  | .idle | .sending _ | .resetting _ => none

/-- The time-driven steps of the part. -/
def timedSteps (s : State) : List Instr :=
  [allChans.map Instr.strobePulseEnd, allChans.map Instr.periodEnd, allHeads.map Instr.frameEnd,
   allHeads.filterMap (ackOnLane s), allHeads.map Instr.ackTimeout, allHeads.map Instr.linkResetEnd, allHeads.map Instr.queryTimerExpiry,
   allTags.map Instr.readRequestTimeout, allTags.map Instr.tagHoldExpiry].flatten

/-- The part's own steps that wait for no tick: promotions first, which follow a close at once (R91, R92), then an
edit, which is applied at the moment its last hold ends (R97), then failures and completions, closes, admissions and
layouts, frames and fetches. -/
def promptSteps (s : State) : List Instr :=
  [allHeads.map Instr.stagedPromotion,
   [Instr.nozzleEditStaged, .nozzleEditImmediate],
   [Instr.writebackUnitFailed 0, .headerReadComplete, .bodyReadComplete, .nextFieldReadComplete, .recordReadFailed],
   [Instr.bandClose, .bandAdmit, .layoutTaken, .layoutBlockReadComplete, .layoutRecordClose, .drainEnd, .abortEnd],
   s.port.transfers.map fun t => Instr.fetchFail t.id,
   s.port.transfers.map fun t => Instr.fetchComplete t.id,
   allHeads.map Instr.frameBegin,
   [Instr.fetchGrant]].flatten

/-- A step comes about in a state: its command has an effect there. -/
def hasEffect (s : State) (i : Instr) : Bool :=
  match exec i s with
  | .next t => decide (t ≠ s)
  | .fault _ => false
  | .refused _ => false

/-- A time-driven step is due. -/
def isDue (s : State) (i : Instr) : Bool :=
  match dueTick i s with
  | some t => decide (t ≤ s.tick)
  | none => false

/-- The part's next own step at this tick, if there is one. -/
def ownStep (s : State) : Option Instr :=
  match (timedSteps s).find? fun i => isDue s i && hasEffect s i with
  | some i => some i
  | none => (promptSteps s).find? (hasEffect s)

/-- With no command waiting, the own step or a tick. -/
def idleStep (s : State) : Host.Outcome State Fault Refusal :=
  match ownStep s with
  | some i => exec i s
  | none => .next (s.withTick (s.tick + 1))

end Sys2Proof.Machine
end

