-- ==== Sys2Proof/Safety.lean ====
section
/-! DEFINITION. What the claims speak of: the laws of the part that hold after every step, and the terms in
which a claim says what a command left alone. -/

namespace Sys2Proof.Machine

/-! ## The laws of the part -/

/-- The product queue holds at most 8 captures, and the queue and the unbound list are never both non-empty
(R12). -/
def ProductQueueLaw (s : State) : Prop :=
  s.posn.productQueue.length ≤ Config.productQueueMax ∧ (s.posn.productQueue = [] ∨ s.win.unbound = [])

/-- The window holds at most 64 bands (R42), and none while the engine is STOPPED (R65). -/
def WindowLaw (s : State) : Prop :=
  s.win.bands.length ≤ Config.windowMax ∧ (s.ctl.engine = .stopped → s.win.bands = [])

/-- Open bands stand in admission order and page records in the order of their opening, each number once and
none yet to be given (R42, R44). The numbers are the model's own names for that order. -/
structure NumberingLaw (s : State) : Prop where
  bands : s.win.bands.Pairwise fun a b => a.id < b.id
  nextBand : ∀ b ∈ s.win.bands, b.id < s.win.nextBand
  pages : s.win.pages.Pairwise fun p q => p.id < q.id
  nextPage : ∀ p ∈ s.win.pages, p.id < s.win.nextPage

/-- A page refers back: the open and the previous page, and the page a page was opened behind, have been opened
before, and a page's first band has been admitted (R44, R45). -/
structure PageOrderLaw (s : State) : Prop where
  openPage : ∀ id, s.win.openPage = some id → id < s.win.nextPage
  prevPage : ∀ id, s.win.prevPage = some id → id < s.win.nextPage
  pred : ∀ p ∈ s.win.pages, ∀ id, p.pred = some id → id < p.id
  firstBand : ∀ p ∈ s.win.pages, p.firstBand < s.win.nextBand

/-- The interrupt output is asserted while at least one flag is both set and enabled, and deasserted otherwise
(R191). -/
def InterruptLaw (s : State) : Prop := s.ctl.irq = irqOf s.ctl.events s.ctl.enables

/-- A channel's queue holds at most 32 lines, and fewer while a composition is live (R105, R132). -/
def Channel.QueueLaw (ch : Channel) : Prop :=
  ch.queue.length ≤ Config.lineQueueMax ∧ (ch.live.isSome = true → ch.queue.length < Config.lineQueueMax)

/-- Every channel keeps the law of its queue. -/
def LineQueueLaw (s : State) : Prop := ∀ c, (s.chan c).QueueLaw

/-- A set holds at most 128 indices, each once, ascending, and each below the index limit (R85). -/
def NozzleSet (limit : Nat) (l : List Nat) : Prop :=
  l.Pairwise (· < ·) ∧ l.length ≤ Config.nozzleSetMax ∧ ∀ i ∈ l, i < limit

/-- Every ACTIVE and STAGED set keeps the law of R85. The rest is what that law rests on: a present head has at
most 4,096 nozzles (R70), and no STAGED set stands while a layout block is read (R67). -/
structure NozzleSetLaw (s : State) : Prop where
  active : ∀ h, NozzleSet (nozzleLimit s.layout h) (s.map h).active
  staged : ∀ h st, (s.map h).staged = some st → NozzleSet (nozzleLimit s.layout h) st.set
  nozzles : ∀ h e, entryOf s.layout h = some e → e.nozzles ≤ Config.absentNozzleLimit
  drained : ∀ x l n, s.reader.work = .blockRead x l n → ∀ h, (s.map h).staged = none

/-- The account of an open band: no more data faults than fired lines; a LATE band owes nothing; and of any other
none of its LINES × K lines is missing from what it owes and what it has counted (R43, R55, R56, R61). -/
def BandEntry.CountLaw (l : Option Layout) (b : BandEntry) : Prop :=
  b.dataFaults ≤ b.fired ∧ (b.late = true → b.outstanding = 0) ∧
  (b.late = false →
    b.lines * channelCount l b.mask ≤ b.outstanding + (b.fired + b.starved + b.dropped + b.skipped))

/-- Every open band keeps its account. The second part is what that rests on: the layout, and with it K, changes
only while the window is empty (R30). -/
def BandCountLaw (s : State) : Prop :=
  (∀ b ∈ s.win.bands, b.CountLaw s.layout) ∧ ∀ x l n, s.reader.work = .blockRead x l n → s.win.bands = []

/-- An address as the part takes it lies on an 8-byte boundary (R21). -/
def aligned (a : Addr) : Prop := a &&& 7#64 = 0

/-- The copy of NEXT of the record in hand. -/
def ReaderWork.next : ReaderWork → Option Addr
  | .bodyFixed _ _ n => some n
  | .bodyList _ _ n _ => some n
  | .held _ n _ => some n
  | .editing _ n => some n
  | .blockRead _ _ n => some n
  | .configuring _ _ n => some n
  | .idle | .headerRead _ | .nextRead _ => none

/-- LIST_HEAD, the reader address and the copy of NEXT in hand lie on 8-byte boundaries (R21). -/
def RecordAddressLaw (s : State) : Prop :=
  aligned s.reader.listHead ∧ aligned s.reader.addr ∧ ∀ n, s.reader.work.next = some n → aligned n

/-- While the engine is SUSPENDED the reader waits in SUSPENDED_OWNER or SUSPENDED_END with no read outstanding
and no record in hand (R31, R32). -/
def SuspensionLaw (s : State) : Prop :=
  s.ctl.engine = .suspended →
    s.reader.work = .idle ∧ (s.reader.cond = .suspendedOwner ∨ s.reader.cond = .suspendedEnd)

/-- A head's query timer runs exactly while it is PARKED (R165); a configuration is in progress exactly while it
is CONFIGURING or RETURNING (R169); a ready note stands only in a park, and a return band only in a return or in
service (R158). -/
structure HeadLink.ServiceLaw (d : HeadLink) : Prop where
  timer : d.timer.isSome = decide (d.service = .parked)
  config : d.config.isSome = (decide (d.service = .configuring) || decide (d.service = .returning))
  ready : d.ready = true → d.service = .parked
  band : d.returnBand.isSome = true → d.service = .inService ∨ d.service = .returning

/-- Every head keeps the law of its service. -/
def ServiceLaw (s : State) : Prop := ∀ h, (s.head h).ServiceLaw

/-! ## What a command leaves alone -/

/-- The parts of the state, each with the block of the manual that owns it. -/
inductive Part where
  | pending | tick | posn | reader | win | layout | maps | chans | heads | port | ctl
  deriving DecidableEq, Repr

/-- A part is the same in two states. -/
def Part.kept (s t : State) : Part → Prop
  | .pending => t.pending = s.pending
  | .tick => t.tick = s.tick
  | .posn => t.posn = s.posn
  | .reader => t.reader = s.reader
  | .win => t.win = s.win
  | .layout => t.layout = s.layout
  | .maps => t.maps = s.maps
  | .chans => t.chans = s.chans
  | .heads => t.heads = s.heads
  | .port => t.port = s.port
  | .ctl => t.ctl = s.ctl

/-- Every part but those listed is the same in two states. -/
def OnlyChanges (parts : List Part) (s t : State) : Prop := ∀ p, p ∉ parts → p.kept s t

/-- A band entry without its counters: what a line-pass never changes (R42, R56). -/
def BandEntry.plan (b : BandEntry) : BandEntry :=
  { b with outstanding := 0, fired := 0, starved := 0, dropped := 0, skipped := 0, dataFaults := 0, lost := 0,
           parkedSeen := false }

/-- A head's two sets. -/
def NozzleMap.sets (m : NozzleMap) : List Nat × Option StagedSet := (m.active, m.staged)

/-! ## What happens to heads -/

/-- On this return lane the acknowledgement to the frame that ended at tick `since` has its bit 0 at tick `t`: the
lane is high there, at or after the frame's end and having been low the tick before, at no earlier tick of the window
did it so go high, and the last bit comes by the 200th tick (R157, R197). -/
structure BeginsAck (lane : List LaneReturn) (since t : Nat) : Prop where
  high : laneHigh lane t = true
  low : ∀ u, u + 1 = t → laneHigh lane u = false
  begins : since ≤ t
  first : ∀ u, since ≤ u → u < t → laneHigh lane u = true → ∃ v, v + 1 = u ∧ laneHigh lane v = true
  received : t + Config.ackTicks ≤ since + Config.answerWindow

/-- With what head `h` sends, `ack`, its lane carries the whole acknowledgement to the frame that ended at tick
`since`: the byte `b`, from tick `t` on (R157, R197; log entry 19). -/
structure Answers (s : State) (h : HeadId) (since : Nat) (ack : LaneReturn) (t : Nat) (b : Byte) : Prop where
  begins : BeginsAck ((s.head h).lane ++ [ack]) since t
  whole : t ≤ ack.bit0
  byte : ∀ i < 8, b.getLsbD i = laneHigh ((s.head h).lane ++ [ack]) (t + i)

/-- The state at tick `now` with the frame of head `h` answered or timed out, its link IDLE and its lane as given
(R161). -/
def answered (s : State) (h : HeadId) (now : Nat) (lane : List LaneReturn) : State :=
  { s with tick := now, heads := s.heads.set h { s.head h with link := .idle, frame := none, lane := lane } }

/-- From `s` to `t` head `h` has parked: PARKED with its query timer running, nothing of it queued or in flight, its
channels emptied and its partners' channels flushed, HEAD_PARKED raised, and for a link cause LINK_RESET pulsed; no
other head's service and no nozzle set has changed (R144, R164). -/
structure ParkEffect (s t : State) (h : HeadId) (linkCause : Bool) : Prop where
  service : (t.head h).service = .parked ∧ ∀ g, g ≠ h → (t.head g).service = (s.head g).service
  cleared : (t.head h).returnBand = none ∧ (t.head h).ready = false ∧ (t.head h).config = none
  link : (t.head h).link = if linkCause then .resetting (t.tick + Config.linkResetTicks) else .idle
  idle : (t.head h).queue = [] ∧ (t.head h).frame = none ∧ (t.head h).again = none
  timer : (t.head h).timer = some
    (if linkCause then t.tick + Config.linkResetTicks + Config.queryInterval else t.tick + Config.queryInterval)
  emptied : ∀ c ∈ headChans s.layout h,
    (t.chan c).queue = [] ∧ (t.chan c).slot = .empty ∧ (t.chan c).shipRequest = false
  flushed : ∀ c ∈ partnerChans s h, (t.chan c).live = none ∧ ∀ x ∈ (t.chan c).queue, (s.chan c).slot = .shipped x.ref
  others : ∀ c, c ∉ headChans s.layout h → c ∉ partnerChans s h → t.chan c = s.chan c
  event : t.ctl.events.getLsbD (eventBit .headParked) = true
  kept : t.layout = s.layout ∧ t.posn = s.posn ∧ ∀ g, (t.map g).sets = (s.map g).sets

/-- From `s` to `t` a page whose first band is `band` has bound: every head parked with its ready note set is
RETURNING with that band and a configuration asked for, and no other head's service has changed (R54, R166, R169). -/
def HeadsReturned (s t : State) (band : Nat) : Prop :=
  ∀ h, if (s.head h).service = .parked ∧ (s.head h).ready = true
    then (t.head h).service = .returning ∧ (t.head h).returnBand = some band ∧ (t.head h).ready = false ∧
      (t.head h).timer = none ∧ (t.head h).config = some false ∧ (t.head h).link = (s.head h).link ∧
      { kind := if dueParams s h = [] then .query else .config, joined := s.tick } ∈ (t.head h).queue
    else (t.head h).service = (s.head h).service ∧ (t.head h).returnBand = (s.head h).returnBand ∧
      (t.head h).ready = (s.head h).ready ∧ (t.head h).timer = (s.head h).timer ∧
      (t.head h).config = (s.head h).config

/-- The binding a page takes from the anchor `a` its formula gives: LATE when P has reached the anchor plus the
smallest channel offset, BOUND otherwise; a continuous page never LATE, but then slipped to P plus its OFFSET
(R51 to R53). -/
def boundFrom (s : State) (continuous : Bool) (offset a : Nat) : PageBinding :=
  let held := fun (n : Nat) => BitVec.ofNat 48 (min n (2 ^ 48 - 1))
  let anchor := held a
  if reached s.posn.pos (anchor.toNat + oMin s.layout) then
    if continuous then .bound (held ((captureOf s.posn.pos).toNat + offset)) else .late anchor
  else .bound anchor

end Sys2Proof.Machine
end

