-- ==== Sys2Proof/WellFormed.lean ====
section
/-! DEFINITION. Which commands are spelled as their row means them. `exec` answers for the others too (it
takes them as the register write, completion or return they are); a sender that keeps to WellFormed names each
event by its own row. -/

namespace Sys2Proof

/-- The byte offsets of the words that a write acts on (R193): ENGINE_CONTROL, POKE, the two LIST_HEAD words,
EVENTS and EVENT_ENABLE. -/
def actingOffsets : List (BitVec 12) := [0x00, 0x04, 0x08, 0x0C, 0x1C, 0x20]

/-- A command is well formed when its operands are those its row describes: an unknown command code names none
of the five commands (R198); a REGISTER_WRITE goes to a word without behaviour of its own (R193); a completion
carries at most the bytes of one request, and none when its status is an error (R39, R40); an acknowledgement
has its bit 0 set (R197). -/
def Instr.wellFormed : Instr → Bool
  | .unknownCommandCode v b => !((b.getLsbD 0) && decide (1 ≤ (v.extractLsb' 0 8).toNat ∧ (v.extractLsb' 0 8).toNat ≤ 5))
  | .registerWrite off _ _ => !(actingOffsets.contains (off &&& ~~~3#12))
  | .readCompletion _ ok data => decide (data.length ≤ Config.requestMax) && (ok || data.isEmpty)
  | .ackReceived _ a => a.byte.getLsbD 0
  | .forwardCount | .backwardCount | .illegalTransition | .strobePulseEnd _ | .periodEnd _ | .productEdge
  | .start | .stop | .abort | .engineReset | .poke | .pokeRegisterWrite _ _ | .listHeadWrite _ _ _
  | .eventsWrite _ _ | .eventEnableWrite _ _ | .currentRecordLowRead _ | .currentRecordHighRead _
  | .chipReset _ _ _ | .headerReadComplete | .bodyReadComplete | .nextFieldReadComplete | .recordReadFailed
  | .bandAdmit | .nozzleEditStaged | .nozzleEditImmediate | .stagedPromotion _ | .layoutTaken
  | .layoutBlockReadComplete | .layoutRecordClose | .bandClose | .writebackUnitFailed _ | .drainEnd | .abortEnd
  | .readRequestTimeout _ | .tagHoldExpiry _ | .fetchGrant | .fetchComplete _ | .fetchFail _ | .frameBegin _
  | .frameEnd _ | .ackTimeout _ | .linkResetEnd _ | .queryTimerExpiry _ | .pcieLinkDown | .pcieLinkUp
  | .productDetectOtherChange => true

end Sys2Proof
end

