-- ==== Sys2Proof/Certificates/Slice0/Obligations.lean ====
section
/-! DEFINITION. The statements for the provers, in the order of OBLIGATIONS.json. Each says what its docstring
says, over every state and every operand that meets its premises; the commands' own effects are written out as
next states, so that a statement is at once the result, the completion and the frame of its command. -/

section
open Sys2Proof Sys2Proof.Machine

/-! ## The machine as a whole -/

/-- A step runs the command at the front of the queue; on an empty queue it is the part's own step if one comes
about, which then changes something, or a tick of the clock (log entries 1 and 5: the queue is the model's). -/
def Obligations.StepRunsFrontCommand : Prop :=
  (∀ (c : Instr) (rest : List Instr) (s : State), step (s.withPending (c :: rest)) = exec c (s.withPending rest)) ∧
  ∀ s : State, s.pending = [] →
    (∀ i, ownStep s = some i → step s = exec i s ∧ ∃ t, exec i s = .next t ∧ t ≠ s) ∧
    (ownStep s = none → step s = .next { s with tick := s.tick + 1 })

/-- Every command is answered with a next state in every state, and none touches the queue. That a step whose
condition fails leaves the state as it is, is the model's choice (log entry 2); the queue is the model's own (log
entry 5). -/
def Obligations.EveryCommandAnswersNext : Prop :=
  ∀ (c : Instr) (s : State), ∃ t, exec c s = .next t ∧ t.pending = s.pending

/-- The state after reset keeps every law of the part. -/
def Obligations.ResetKeepsEveryLaw : Prop :=
  ProductQueueLaw State.reset ∧ WindowLaw State.reset ∧ NumberingLaw State.reset ∧ PageOrderLaw State.reset ∧
  InterruptLaw State.reset ∧
  LineQueueLaw State.reset ∧ BandCountLaw State.reset ∧ NozzleSetLaw State.reset ∧
  RecordAddressLaw State.reset ∧ SuspensionLaw State.reset ∧ ServiceLaw State.reset

/-- Every step keeps the law of the product queue (R12), the bound of the window (R42, R65), the order of bands and
pages, which refer back alone (R42, R44, R45), and the interrupt output equal to "some flag is set and enabled" (R191). -/
def Obligations.StepKeepsWindowAndInterrupt : Prop :=
  ∀ s t : State, step s = .next t →
    (ProductQueueLaw s → ProductQueueLaw t) ∧ (WindowLaw s → WindowLaw t) ∧ (NumberingLaw s → NumberingLaw t) ∧
    (PageOrderLaw s → PageOrderLaw t) ∧ (InterruptLaw s → InterruptLaw t)

/-- Every step keeps every channel's queue within 32 lines (R132), and every open band's account: no line missing
from the count, no more data faults than fired lines (R43, R56, R61). -/
def Obligations.StepKeepsLinesAndAccounts : Prop :=
  ∀ s t : State, step s = .next t → (LineQueueLaw s → LineQueueLaw t) ∧ (BandCountLaw s → BandCountLaw t)

/-- Every step keeps every ACTIVE and STAGED set ascending, within 128 indices and below the index limit (R85). -/
def Obligations.StepKeepsNozzleSets : Prop := ∀ s t : State, NozzleSetLaw s → step s = .next t → NozzleSetLaw t

/-- Every step keeps every record address on an 8-byte boundary (R21), and a SUSPENDED engine's reader without
read or record (R31, R32). -/
def Obligations.StepKeepsReaderLaws : Prop :=
  ∀ s t : State, step s = .next t →
    (RecordAddressLaw s → RecordAddressLaw t) ∧ (SuspensionLaw s → SuspensionLaw t)

/-- Every step keeps every head's timer, configuration, ready note and return band in keeping with its service
(R158, R165, R169). -/
def Obligations.StepKeepsHeadServices : Prop := ∀ s t : State, ServiceLaw s → step s = .next t → ServiceLaw t

/-- P changes by encoder counts and chip reset alone (R4); the layout in force by the application of a block and
chip reset alone (R66); the event enables and LIST_HEAD by their own registers and chip reset alone (R24, R191). -/
def Obligations.OnlyTheirCommandsChange : Prop :=
  ∀ (c : Instr) (s t : State), exec c s = .next t → c.wellFormed = true → (∀ x y z, c ≠ .chipReset x y z) →
    (c ≠ .forwardCount → c ≠ .backwardCount → t.posn.pos = s.posn.pos) ∧
    (c ≠ .layoutBlockReadComplete → t.layout = s.layout) ∧
    ((∀ v b, c ≠ .eventEnableWrite v b) → t.ctl.enables = s.ctl.enables) ∧
    ((∀ h v b, c ≠ .listHeadWrite h v b) → t.reader.listHead = s.reader.listHead)

/-- From HALTED only ABORT, ENGINE_RESET and chip reset lead on; every other command leaves the engine HALTED
with its cause (R184). -/
def Obligations.HaltedIsLeftByAbortOrReset : Prop :=
  ∀ (c : Instr) (s t : State), exec c s = .next t → c.wellFormed = true → s.ctl.engine = .halted →
    c ≠ .abort → c ≠ .engineReset → (∀ x y z, c ≠ .chipReset x y z) →
    t.ctl.engine = .halted ∧ t.ctl.cause = s.ctl.cause

/-- Raising an event sets its flag and no other; the interrupt output is on exactly while some flag is set and
enabled; its rise posts one message, lost while the link is down; nothing else changes (R190, R191). -/
def Obligations.RaisingAnEvent : Prop :=
  ∀ (e : Event) (s : State),
    let t := raise e s
    t.ctl = { s.ctl with events := s.ctl.events ||| (1#9 <<< eventBit e), irq := t.ctl.irq } ∧
    (t.ctl.irq = true ↔
      ∃ f : Event, t.ctl.events.getLsbD (eventBit f) = true ∧ s.ctl.enables.getLsbD (eventBit f) = true) ∧
    t.port = (if t.ctl.irq && !s.ctl.irq && s.port.linkUp
      then { s.port with outbox := s.port.outbox ++ [.interrupt] } else s.port) ∧
    OnlyChanges [.ctl, .port] s t

/-! ## The Position Unit -/

/-- FORWARD_COUNT moves P up by INC, held at the largest value, and the decoder to the pair that the direction in
force names (R2, R6). With no layout loaded only the decoder moves. What the crossings of a count may change
never includes the layout, the pages, a band's plan, a nozzle set or a head's service. -/
def Obligations.ForwardCountMovesPosition : Prop :=
  ∀ s : State,
    (s.layout = none → exec .forwardCount s =
      .next { s with posn := { s.posn with encA := (tableForward (s.posn.encA, s.posn.encB)).1,
                                           encB := (tableForward (s.posn.encA, s.posn.encB)).2 } }) ∧
    ∀ l, s.layout = some l → ∃ t, exec .forwardCount s = .next t ∧
      posNat t.posn.pos = min (posNat s.posn.pos + l.increment) (2 ^ 56 - 1) ∧
      (t.posn.encA, t.posn.encB) =
        (if l.invert then tableBackward (s.posn.encA, s.posn.encB) else tableForward (s.posn.encA, s.posn.encB)) ∧
      t.posn.productLevel = s.posn.productLevel ∧ t.posn.lockoutRef = s.posn.lockoutRef ∧
      t.posn.productQueue = s.posn.productQueue ∧ t.layout = s.layout ∧ t.tick = s.tick ∧
      t.win.pages = s.win.pages ∧ t.win.bands.map BandEntry.plan = s.win.bands.map BandEntry.plan ∧
      (∀ h, (t.map h).sets = (s.map h).sets) ∧ ∀ h, (t.head h).service = (s.head h).service

/-- A count that brings P to no watched target changes the Position Unit alone; a count that crosses the watched
target of one channel hands the crossing to that channel alone (R8, R18). -/
def Obligations.ForwardCountCrossings : Prop :=
  ∀ (s : State) (l : Layout), s.layout = some l →
    let q := if l.invert then tableBackward (s.posn.encA, s.posn.encB) else tableForward (s.posn.encA, s.posn.encB)
    let s1 := { s with posn := { s.posn with pos := posForward l.increment s.posn.pos, encA := q.1, encB := q.2 } }
    let crossed := fun (c : ChanId) =>
      ∃ t, watched s c = some t ∧ reached s.posn.pos t = false ∧ reached s1.posn.pos t = true
    ((∀ c, ¬crossed c) → exec .forwardCount s = .next s1) ∧
    ∀ c, crossed c → (∀ d, d ≠ c → ¬crossed d) → exec .forwardCount s = .next (settle c (crossing c s1))

/-- BACKWARD_COUNT takes INC from P, held at 0 + 0, takes the decoder to its new pair, and crosses nothing:
nothing else changes, and POSITION reads the new integer part (R7). With no layout only the decoder moves (R2). -/
def Obligations.BackwardCountMovesPosition : Prop :=
  ∀ s : State,
    (s.layout = none → exec .backwardCount s =
      .next { s with posn := { s.posn with encA := (tableBackward (s.posn.encA, s.posn.encB)).1,
                                           encB := (tableBackward (s.posn.encA, s.posn.encB)).2 } }) ∧
    ∀ l, s.layout = some l → ∃ p t,
      posNat p = posNat s.posn.pos - l.increment ∧
      t = { s with posn := { s.posn with
        pos := p
        encA := (if l.invert then tableForward (s.posn.encA, s.posn.encB)
          else tableBackward (s.posn.encA, s.posn.encB)).1
        encB := (if l.invert then tableForward (s.posn.encA, s.posn.encB)
          else tableBackward (s.posn.encA, s.posn.encB)).2 } } ∧
      exec .backwardCount s = .next t ∧ readWord 0x24 t = p.line

/-- ILLEGAL_TRANSITION makes no count: in every state it leads to the state in which the decoder has taken the pair
with both inputs changed and ENCODER_ERROR is raised, with all that a raised event brings: the interrupt output is on
exactly while some flag is set and enabled, and its rise posts one message, lost while the link is down. Nothing else
changes (R3, R190, R191). -/
def Obligations.IllegalTransitionRaisesError : Prop :=
  ∀ s : State,
    let t := raise .encoderError { s with posn := { s.posn with encA := !s.posn.encA, encB := !s.posn.encB } }
    exec .illegalTransition s = .next t ∧
    t.posn = { s.posn with encA := !s.posn.encA, encB := !s.posn.encB } ∧
    t.ctl = { s.ctl with events := s.ctl.events ||| 0x40#9, irq := t.ctl.irq } ∧
    (t.ctl.irq = true ↔
      ∃ f : Event, t.ctl.events.getLsbD (eventBit f) = true ∧ s.ctl.enables.getLsbD (eventBit f) = true) ∧
    t.port = (if t.ctl.irq && !s.ctl.irq && s.port.linkUp
      then { s.port with outbox := s.port.outbox ++ [.interrupt] } else s.port) ∧
    OnlyChanges [.posn, .ctl, .port] s t

/-- PRODUCT_EDGE (R9 to R13): an edge not accepted changes the level alone; an accepted one makes a capture, P
truncated to 1/256 line, which becomes the lockout reference and, with no page unbound, joins the queue or, when
8 are held, is lost with PRODUCT_MISSED. PRODUCT_DETECT_OTHER_CHANGE changes the level alone. -/
def Obligations.ProductEdgeTakesCapture : Prop :=
  ∀ (s : State) (l : Layout), s.layout = some l →
    exec .productDetectOtherChange s = .next { s with posn := { s.posn with productLevel := l.falling } } ∧
    (s.posn.productLevel = l.falling →
      let q := captureOf s.posn.pos
      let accepted := (s.ctl.engine = .running ∨ s.ctl.engine = .suspended ∨ s.ctl.engine = .draining) ∧
        ∀ r, s.posn.lockoutRef = some r → r.toNat + 256 * l.lockout ≤ q.toNat
      q.toNat = s.posn.pos.line.toNat * 256 + s.posn.pos.frac.toNat / 65536 ∧
      (¬accepted → exec .productEdge s = .next { s with posn := { s.posn with productLevel := !l.falling } }) ∧
      (accepted → s.win.unbound = [] →
        (s.posn.productQueue.length < 8 → exec .productEdge s =
          .next { s with posn := { s.posn with productLevel := !l.falling, lockoutRef := some q,
                                               productQueue := s.posn.productQueue ++ [q] } }) ∧
        (8 ≤ s.posn.productQueue.length → exec .productEdge s =
          .next (raise .productMissed
            { s with posn := { s.posn with productLevel := !l.falling, lockoutRef := some q } }))))

/-- An accepted edge binds the oldest page of the unbound list at once: the anchor is the capture plus the OFFSET
of the page's first band, raised to the end of the page before it with the OVERLAP mark, and the page becomes
BOUND, or LATE when P has already reached the anchor plus the smallest channel offset, its open bands then LATE and
owing nothing. The FOLLOWING page behind it binds with it at its end plus its own OFFSET, and the heads noted ready
in their park return (R11, R50 to R55, R166). An anchor raised past 48 bits is held at 2^48 - 1, as R51 says of a
sum (log entry 22, DEDUCED). -/
def Obligations.ProductEdgeBindsOldestPage : Prop :=
  ∀ (s : State) (l : Layout) (id : Nat) (ids : List Nat) (p : Page),
    s.layout = some l → s.posn.productLevel = l.falling →
    (s.ctl.engine = .running ∨ s.ctl.engine = .suspended ∨ s.ctl.engine = .draining) →
    (∀ r, s.posn.lockoutRef = some r → r.toNat + 256 * l.lockout ≤ (captureOf s.posn.pos).toNat) →
    s.win.unbound = id :: ids → findPage s id = some p → p.continuous = false →
    let a := (captureOf s.posn.pos).toNat + firstOffset s p
    let raised := match predEnd s p with
      | some e => max a e
      | none => a
    let anchor := BitVec.ofNat 48 (min raised (2 ^ 48 - 1))
    ∃ t, exec .productEdge s = .next t ∧
      t.posn = { s.posn with productLevel := !l.falling, lockoutRef := some (captureOf s.posn.pos) } ∧
      t.win.unbound = ids ∧
      (∀ k ∈ t.win.pages, k.id = id →
        k.binding = if reached s.posn.pos (anchor.toNat + oMin s.layout) then .late anchor else .bound anchor) ∧
      ((∃ b ∈ s.win.bands, b.page = id) → ∃ k ∈ t.win.pages, k.id = id ∧ k.count = p.count) ∧
      (reached s.posn.pos (anchor.toNat + oMin s.layout) = true →
        ∀ b ∈ t.win.bands, b.page = id → b.late = true ∧ b.outstanding = 0) ∧
      (∀ q, NumberingLaw s → findPage s q.id = some q → q.id ≠ id → q.pred = some id → q.binding = .following →
        q.continuous = true → (∀ u ∈ s.win.pages, u.pred = some id → u.binding = .following → u.id = q.id) →
        (∃ b ∈ s.win.bands, b.page = q.id) → ∃ k ∈ t.win.pages, k.id = q.id ∧
          k.binding = boundFrom s true (firstOffset s q) (anchor.toNat + 256 * p.count + firstOffset s q)) ∧
      HeadsReturned s t p.firstBand ∧
      (a < raised → ∀ b ∈ t.win.bands, b.id = p.firstBand → b.overlap = true) ∧
      t.win.bands.map BandEntry.id = s.win.bands.map BandEntry.id ∧
      t.layout = s.layout ∧ t.tick = s.tick ∧ ∀ h, (t.map h).sets = (s.map h).sets

/-- P has reached a target exactly when its integer part times 2^24 plus its fraction is at least the target
times 2^16; a sum of 2^48 or more is never reached (R17). -/
def Obligations.ReachedComparesAtFullWidth : Prop :=
  (∀ (p : Position) (t : Nat),
    (reached p t = true ↔ t * 2 ^ 16 ≤ p.line.toNat * 2 ^ 24 + p.frac.toNat) ∧
    (2 ^ 48 ≤ t → reached p t = false)) ∧
  reached { line := 6200, frac := 12582912 } (6200 * 256 + 192) = true ∧
  reached { line := 6200, frac := 12582911 } (6200 * 256 + 192) = false

/-! ## The Firing Channels -/

/-- STROBE_PULSE_END ends the channel's pulse at its tick, and the channel requests the shipping of its
next-to-fire line exactly when R135 allows it. The row's strobe is asserted until the pulse's end, on a present head
alone (R73, R135, R139). That the clock stands at the pulse's end or later is the model's choice (log entry 1). -/
def Obligations.StrobePulseEndMayShip : Prop :=
  ∀ (s : State) (c : ChanId) (e : Nat), (s.chan c).pulseEnd = some e →
    let ch := { s.chan c with pulseEnd := none }
    let s1 := { s with tick := max s.tick e, chans := s.chans.set c ch }
    let may := (s.ctl.engine = .running ∨ s.ctl.engine = .suspended ∨ s.ctl.engine = .draining) ∧
      (∃ r x xs, ch.next = some r ∧ ch.queue = x :: xs ∧ x.ref = r ∧ serves s (headOf c) r.band = true) ∧
      ch.slot = .empty ∧ ch.shipRequest = false ∧ (chanEntry s.layout c).isSome = true
    (firePin s c = true ↔ s.tick < e ∧ (chanEntry s.layout c).isSome = true) ∧ firePin s1 c = false ∧
    (¬may → exec (.strobePulseEnd c) s = .next s1) ∧
    (may → exec (.strobePulseEnd c) s =
      .next { s1 with
        chans := s.chans.set c { ch with shipRequest := true }
        heads := s.heads.set (headOf c)
          { s.head (headOf c) with
            queue := enqueue { kind := shipKind c, joined := s1.tick } (s.head (headOf c)).queue } })

/-- PERIOD_END fires a deferred line that is shipped: the strobe is asserted for 20 ticks, its tick is the last
fire tick, the line leaves queue and slot with a FIRED report, and the channel moves on by one; a following line already reached
then crosses by R19, and where it is not reached nothing else changes (R137, R139, R140). That the clock stands at
the period's end or later is the model's choice (log entry 1). -/
def Obligations.PeriodEndFiresDeferredLine : Prop :=
  ∀ (s : State) (c : ChanId) (e : Nat) (r : LineRef) (x : ComposedLine) (xs : List ComposedLine),
    chanState s c = .deferred → (s.chan c).lastFire = some e → (s.chan c).next = some r →
    (s.chan c).queue = x :: xs → x.ref = r → (s.chan c).slot = .shipped r →
    exec (.periodEnd c) s = .next (settle c (fire c x { s with tick := max s.tick (e + periodOf s c) })) ∧
    ((∀ n, (lineAfter s c r).bind (target s c) = some n → reached s.posn.pos n = false) →
    ∃ t, exec (.periodEnd c) s = .next t ∧
      t.tick = max s.tick (e + periodOf s c) ∧
      (t.chan c).pulseEnd = some (t.tick + 20) ∧ (t.chan c).lastFire = some t.tick ∧
      (t.chan c).next = lineAfter s c r ∧ (t.chan c).deferred = false ∧ (t.chan c).queue = xs ∧
      (t.chan c).slot = .empty ∧ (∀ d, d ≠ c → t.chan d = s.chan d) ∧
      t.win = { s.win with bands := s.win.bands.map fun b =>
        if b.id = r.band then reportTo (.fired x.dataFault x.lost) b else b } ∧
      (∀ h, (t.map h).sets = (s.map h).sets) ∧ OnlyChanges [.tick, .chans, .win, .maps] s t)

/-- A crossing of a WAITING channel's line fires it when it is shipped and the period is over, defers it when it
is composed and not ready, and starves it otherwise, halting the engine under the HALT policy; a SKIPPING
channel's line is skipped; a DEFERRED channel drops its deferred line, whose frame or ship request is withdrawn, and
the line that follows is crossed at once; a FROZEN or IDLE channel does nothing. Each line-pass changes its band's
counters as the table of R56 says, and one band alone (R56, R57, R138, R140 to R143, R146, R163). -/
def Obligations.CrossingOutcomes : Prop :=
  (∀ (s : State) (c : ChanId), chanState s c = .frozen ∨ chanState s c = .idle → crossing c s = s) ∧
  ∀ (s : State) (c : ChanId) (r : LineRef), (s.chan c).next = some r →
    let composed := ∃ x xs, (s.chan c).queue = x :: xs ∧ x.ref = r
    let ended := ∀ e, (s.chan c).lastFire = some e → e + periodOf s c ≤ s.tick
    let t := crossing c s
    let passes := fun (o : PassOutcome) =>
      t.win = { s.win with bands := s.win.bands.map fun b => if b.id = r.band then reportTo o b else b } ∧
      (t.chan c).next = lineAfter s c r ∧ (t.chan c).deferred = false ∧ ∀ d, d ≠ c → t.chan d = s.chan d
    (chanState s c = .waiting →
      (∀ x xs, (s.chan c).queue = x :: xs → x.ref = r → (s.chan c).slot = .shipped r → ended →
        passes (.fired x.dataFault x.lost) ∧ (t.chan c).pulseEnd = some (s.tick + 20) ∧
        (t.chan c).lastFire = some s.tick ∧ (t.chan c).queue = xs ∧ (t.chan c).slot = .empty ∧ t.ctl = s.ctl) ∧
      (composed → ¬((s.chan c).slot = .shipped r ∧ ended) →
        t = { s with chans := s.chans.set c { s.chan c with deferred := true } }) ∧
      (¬composed →
        passes .starved ∧ (t.chan c).pulseEnd = (s.chan c).pulseEnd ∧ (t.chan c).queue = (s.chan c).queue ∧
        ∀ l, s.layout = some l →
          (l.haltPolicy = false → t.ctl = s.ctl) ∧
          (l.haltPolicy = true → working s = true → t.ctl.engine = .halted ∧ t.ctl.cause = .starved))) ∧
    (chanState s c = .skipping →
      passes (.skipped (decide ((s.head (headOf c)).service ≠ .outOfService))) ∧
      (t.chan c).pulseEnd = (s.chan c).pulseEnd ∧ (t.chan c).lastFire = (s.chan c).lastFire ∧ t.ctl = s.ctl) ∧
    (chanState s c = .deferred →
      ∃ s1, crossing c s = crossing c s1 ∧
        s1.win = { s.win with bands := s.win.bands.map fun b => if b.id = r.band then reportTo .dropped b else b } ∧
        (s1.chan c).next = lineAfter s c r ∧ (s1.chan c).deferred = false ∧ (s1.chan c).shipRequest = false ∧
        (∀ x xs, (s.chan c).queue = x :: xs → x.ref = r → (s1.chan c).queue = xs) ∧
        ((s.chan c).slot = .transit r ∨ (s.chan c).slot = .shipped r → (s1.chan c).slot = .empty) ∧
        (s1.chan c).pulseEnd = (s.chan c).pulseEnd ∧ (s1.chan c).lastFire = (s.chan c).lastFire ∧
        (∀ d, d ≠ c → s1.chan d = s.chan d) ∧ (∀ h, h ≠ headOf c → s1.head h = s.head h) ∧
        (s1.head (headOf c) =
          let d := s.head (headOf c)
          let transit := match (s.chan c).slot with
            | .transit _ => true
            | .empty | .shipped _ => false
          let mark := fun (f : Frame) => { f with withdrawn := f.withdrawn || (transit && match f.body with
            | .line row _ _ => decide (row = rowOf c)
            | .config _ | .query => false) }
          { d with
            queue := if (s.chan c).shipRequest then d.queue.filter (fun q => q.kind ≠ shipKind c) else d.queue
            frame := d.frame.map mark
            again := d.again.map mark }) ∧
        (∀ h, (s1.map h).sets = (s.map h).sets) ∧ OnlyChanges [.win, .chans, .heads, .maps] s s1) ∧
    ∀ (b : BandEntry) (o : PassOutcome), reportTo o b =
      { b with
        outstanding := b.outstanding - 1
        fired := b.fired + (match o with | .fired _ _ => 1 | _ => 0)
        starved := b.starved + (match o with | .starved => 1 | _ => 0)
        dropped := b.dropped + (match o with | .dropped => 1 | _ => 0)
        skipped := b.skipped + (match o with | .skipped _ => 1 | _ => 0)
        dataFaults := b.dataFaults + (match o with | .fired true _ => 1 | _ => 0)
        lost := (match o with | .fired _ n => min (b.lost + n) (2 ^ 32 - 1) | _ => b.lost)
        parkedSeen := b.parkedSeen || (match o with | .skipped k => k | _ => false) }

/-! ## Commands of the host -/

/-- START in STOPPED with a LIST_HEAD that is not 0 empties the product queue, clears the page state, the poke
mark and the halt cause, and begins the header read at LIST_HEAD; the engine is RUNNING (R24, R180). -/
def Obligations.StartBeginsAtListHead : Prop :=
  ∀ s : State, s.ctl.engine = .stopped → s.reader.listHead &&& ~~~7#64 ≠ 0 →
    exec .start s = .next (startTransfer none (s.reader.listHead &&& ~~~7#64) 16
      { s with
        posn := { s.posn with productQueue := [] }
        win := { s.win with pages := [], openPage := none, prevPage := none, firstPage := true, unbound := [] }
        ctl := { s.ctl with engine := .running, cause := .none }
        reader := { s.reader with addr := s.reader.listHead &&& ~~~7#64, cond := .reading, pokePending := false,
                                  work := .headerRead s.port.nextXfer } })

/-- A command, poke or LIST_HEAD write outside the states that take it, and a code that names no command, change
nothing and raise COMMAND_REJECTED (R24, R33, R179, R198). -/
def Obligations.RefusedCommandsOnlyRaise : Prop :=
  ∀ s : State,
    let refused : Host.Outcome State Fault Refusal := .next (raise .commandRejected s)
    (s.ctl.engine ≠ .stopped ∨ s.reader.listHead &&& ~~~7#64 = 0 → exec .start s = refused) ∧
    (s.ctl.engine ≠ .running → s.ctl.engine ≠ .suspended → exec .stop s = refused ∧ exec .poke s = refused ∧
      ∀ v b, exec (.pokeRegisterWrite v b) s = refused) ∧
    (s.ctl.engine = .stopped ∨ s.ctl.engine = .aborting → exec .abort s = refused) ∧
    (s.ctl.engine ≠ .stopped → ∀ h v b, exec (.listHeadWrite h v b) s = refused) ∧
    ∀ v b, ((accessed v b).extractLsb' 0 8).toNat = 0 ∨ 5 < ((accessed v b).extractLsb' 0 8).toNat →
      exec (.unknownCommandCode v b) s = refused

/-- STOP in RUNNING or SUSPENDED makes the engine DRAINING and clears the poke mark: a read of a header, body or
NEXT field is discarded, a held record is abandoned, a record taken runs on. With nothing left to drain the engine
is STOPPED at once, with STOPPED_EVENT (R34, R181). That a STAGED set not yet promoted (log entry 16, DEDUCED) and a
failed unit not yet reported (log entry 4, the model's choice) are left to drain is the model's reading. -/
def Obligations.StopDrains : Prop :=
  ∀ s : State, s.ctl.engine = .running ∨ s.ctl.engine = .suspended →
    let left : ReaderWork × MemoryPort := match s.reader.work with
      | .headerRead x | .bodyFixed x _ _ | .bodyList x _ _ _ | .nextRead x => (.idle, dropTransfer x s.port)
      | .held b n _ => (.held b n true, s.port)
      | .idle | .editing _ _ | .blockRead _ _ _ | .configuring _ _ _ => (s.reader.work, s.port)
    let s1 := { s with
      ctl := { s.ctl with engine := .draining }
      reader := { s.reader with pokePending := false, work := left.1 }
      port := left.2 }
    let taken := match left.1 with
      | .editing _ _ | .blockRead _ _ _ | .configuring _ _ _ => True
      | _ => False
    let done := s.win.bands = [] ∧ ¬taken ∧ s.port.failed = [] ∧ ∀ h, (s.map h).staged = none
    (¬done → exec .stop s = .next s1) ∧
    (done → exec .stop s = .next (raise .stoppedEvent
      { s1 with ctl := { s.ctl with engine := .stopped }, reader := { s1.reader with work := .idle } }))

/-- ABORT first completes an edit being carried out that waits on no hold: the sets, the hold and the flushes as the
edit's own command makes them, and the record closed DONE, the reader left on it without a record in hand. It then
freezes and empties every channel, discards line fetches and the reader's reads, breaks the frames of
the heads in service, parked, configuring or returning, parks the latter two with HEAD_PARKED, flushing their partners,
so that their channels compose from their next lines, empties the
product queue and the unbound list, and keeps P, the lockout reference, the layout, the bands, the sets and the halt
cause; an edit waiting on a hold waits on, a layout record in hand is closed ABORTED, and one being configured DONE
with its park mask (R35, R100, R124, R126, R173, R185, R187). By
the log: the edit's flushes are made in the engine state that stood (entry 29, DEDUCED), nothing is left only when no
STAGED set is (entry 16, DEDUCED), every line fetch is discarded, orphans too
(entry 26, DEDUCED), and the unit stands in the outbox within the step (entry 4, the model's choice). -/
def Obligations.AbortFreezesAndParks : Prop :=
  ∀ s : State, s.ctl.engine = .running ∨ s.ctl.engine = .suspended ∨ s.ctl.engine = .draining ∨
      s.ctl.engine = .halted →
    let waits := fun (e : EditRecord) =>
      e.immediate = true ∧ ((s.map e.head).hold ≠ none ∨ ∃ g ∈ partners s.layout e.head, (s.map g).hold ≠ none)
    let parks := fun (h : HeadId) => (s.head h).service = .configuring ∨ (s.head h).service = .returning
    (∀ (e : EditRecord) (next : Addr), s.reader.work = .editing e next → ¬waits e →
      let m := s.map e.head
      let limit := nozzleLimit s.layout e.head
      let a := applyEdit e.op limit e.indices m.active
      let b := m.staged.map fun st => applyEdit e.op limit e.indices st.set
      let staged := m.staged.map fun st => { st with set := (applyEdit e.op limit e.indices st.set).set }
      let ignored := a.ignored || (e.immediate && (b.map EditResult.ignored).getD false)
      let capacity := a.capacity || (e.immediate && (b.map EditResult.capacity).getD false)
      let seam := seamChans s e.head
      let pins := seam.filterMap fun c => match (s.chan c).slot with
        | .shipped r => some { band := r.band, line := r.line, set := mapVersion m s.win.bands r.band }
        | .empty | .transit _ => none
      let hold : Option Hold :=
        if pins = [] then none else some { active := m.active, staged := m.staged.map StagedSet.set, pins := pins }
      let put := fun (x : NozzleMap) => { s with maps := s.maps.set e.head x }
      let u : State :=
        if e.immediate then
          if a.set ≠ m.active ∨ staged ≠ m.staged then
            seam.foldl (fun u c => flush c u) (put { active := a.set, staged := staged, hold := hold })
          else s
        else if e.op = .noOperation then s
        else if s.win.bands = [] then put { m with active := a.set }
        else put { m with staged := some { set := a.set, waiting := s.win.bands.length } }
      let v := handOver
        { writes := [(s.reader.addr + 4, BitVec.ofNat 32 (1 + 256 * (ignored.toNat + 2 * capacity.toNat))),
                     (s.reader.addr, 0x200)]
          notify := e.notify } { u with reader := { u.reader with work := .idle } }
      exec .abort s = exec .abort v ∧ v.reader = { s.reader with work := .idle } ∧
        (v.ctl.engine = s.ctl.engine ∨ v.ctl.engine = .halted)) ∧
    ((∀ e next, s.reader.work = .editing e next → waits e) → ∃ t, exec .abort s = .next t ∧
      (∀ e next, s.reader.work = .editing e next → t.reader.work = .editing e next) ∧
      t.ctl.engine = (if workDone t then .stopped else .aborting) ∧ t.ctl.cause = s.ctl.cause ∧
      t.posn = { s.posn with productQueue := [] } ∧ t.layout = s.layout ∧ t.maps = s.maps ∧ t.tick = s.tick ∧
      t.win.bands = s.win.bands ∧ t.win.unbound = [] ∧ t.win.openPage = none ∧ t.win.firstPage = true ∧
      t.reader.addr = s.reader.addr ∧ t.reader.listHead = s.reader.listHead ∧ t.reader.pokePending = false ∧
      readerXfer t.reader.work = none ∧
      (∀ c, t.chan c = { s.chan c with
        deferred := false, queue := [], slot := .empty, shipRequest := false, live := none
        compose :=
          if ∃ h, parks h ∧ c ∈ partnerChans s h then
            match (t.head (headOf c)).returnBand, (s.chan c).next with
            | some r, some p => if p.band < r then firstLineFrom s c r else some p
            | some _, none | none, _ => (s.chan c).next
          else (s.chan c).compose }) ∧
      (∀ h, t.head h =
        let d := s.head h
        let broken : HeadLink :=
          { d with queue := [], frame := none, again := none, link := .resetting (s.tick + 100) }
        match d.service with
        | .absent | .outOfService => d
        | .inService => broken
        | .parked => { broken with ready := false, timer := some (s.tick + 100 + 100000) }
        | .configuring | .returning =>
          { broken with service := .parked, returnBand := none, ready := false, config := none,
                        timer := some (s.tick + 100 + 100000) }) ∧
      (t.ctl.events.getLsbD 5 = true ↔ s.ctl.events.getLsbD 5 = true ∨
        ∃ h, parks h) ∧
      (∀ x ∈ t.port.transfers, x.fetch = none) ∧ t.port.grant = none ∧ t.port.tags = s.port.tags ∧
      ∀ (result : Word32), s.port.linkUp = true →
        ((∃ x l n, s.reader.work = .blockRead x l n ∧ result = 3) ∨
          (∃ l n, s.reader.work = .held (.layout l) n false ∧ result = 3) ∨
          (∃ l f n, s.reader.work = .configuring l f n ∧ ∃ p : BitVec 16,
            (∀ h : HeadId, p.getLsbD h.val = decide ((t.head h).service = .parked)) ∧ result = p ++ f ++ 1#8)) →
        ∃ before after, t.port.outbox = s.port.outbox ++ before ++
          postedWrite (addrPlus s.reader.addr 4) result ++ postedWrite s.reader.addr 0x300 ++ after)

/-- ENGINE_RESET empties the engine's work at once without write-back: engine STOPPED, no cause, no flag, no
interrupt; reader, window, channels and port emptied, tags, P, lockout, layout, enables and LIST_HEAD kept; every
STAGED set promoted and an edit being carried out applied; LINK_RESET pulsed on all sixteen heads, and heads
configuring, returning or parked PARKED (R101, R174, R188). -/
def Obligations.EngineResetEmptiesWork : Prop :=
  ∀ s : State, ∃ t, exec .engineReset s = .next t ∧
    t.ctl = { s.ctl with engine := .stopped, cause := .none, events := 0, irq := false, capture := none } ∧
    t.posn = { s.posn with productQueue := [] } ∧
    t.reader = { s.reader with addr := 0, cond := .reading, pokePending := false, work := .idle } ∧
    t.win = { s.win with bands := [], pages := [], openPage := none, prevPage := none, firstPage := true, unbound := [] } ∧
    t.port = { s.port with transfers := [], grant := none, failed := [] } ∧
    (∀ c, t.chan c = { Channel.reset with lastFire := (s.chan c).lastFire }) ∧
    (∀ h, t.head h =
      let d := s.head h
      let parks := d.service = .configuring ∨ d.service = .returning ∨ d.service = .parked
      { d with
        service := if parks then .parked else d.service
        returnBand := none, ready := false, config := none, queue := [], frame := none, again := none
        link := .resetting (s.tick + 100)
        timer := if parks then some (s.tick + 100 + 100000) else none }) ∧
    (∀ h, (t.map h).staged = none ∧ (t.map h).hold = none ∧
      let promoted := match (s.map h).staged with
        | some st => st.set
        | none => (s.map h).active
      (∀ e n, s.reader.work = .editing e n → e.head = h →
        (t.map h).active = (applyEdit e.op (nozzleLimit s.layout h) e.indices promoted).set) ∧
      ((∀ e n, s.reader.work = .editing e n → e.head ≠ h) → (t.map h).active = promoted)) ∧
    OnlyChanges [.ctl, .posn, .reader, .win, .port, .chans, .heads, .maps] s t

/-- A poke, by either of its two writes, sets the poke mark in RUNNING; in SUSPENDED it makes the engine RUNNING
and the reader reads again: the header at the same address from SUSPENDED_OWNER, the NEXT field of the same record
from SUSPENDED_END (R31 to R33). -/
def Obligations.PokeResumesReader : Prop :=
  ∀ (s : State) (c : Instr), c = .poke ∨ (∃ v b, c = .pokeRegisterWrite v b) →
    (s.ctl.engine = .running →
      exec c s = .next { s with reader := { s.reader with pokePending := true } }) ∧
    (s.ctl.engine = .suspended → s.reader.cond = .suspendedOwner →
      exec c s = .next (startTransfer none s.reader.addr 16
        { s with ctl := { s.ctl with engine := .running }
                 reader := { s.reader with cond := .reading, work := .headerRead s.port.nextXfer } })) ∧
    (s.ctl.engine = .suspended → s.reader.cond = .suspendedEnd →
      exec c s = .next (startTransfer none (s.reader.addr + 8) 8
        { s with ctl := { s.ctl with engine := .running }
                 reader := { s.reader with cond := .reading, work := .nextRead s.port.nextXfer } }))

/-- A write to ENGINE_CONTROL is decoded from bits 7:0 alone, bytes not written being 0, and a write at an offset
of the window is what its word makes of it: the commands, pokes and register writes of R193, and no effect
anywhere else (R193, R198). UNKNOWN_COMMAND_CODE and REGISTER_WRITE that name an acting word are taken as it is
(log entry 7). -/
def Obligations.RegisterWindowWrites : Prop :=
  ∀ (s : State) (v : Word32) (b : BitVec 4) (off : BitVec 12),
    let code := ((accessed v b).extractLsb' 0 8).toNat
    let word := (off &&& 0xFFC#12).toNat
    (code = 1 → exec (.unknownCommandCode v b) s = exec .start s) ∧
    (code = 2 → exec (.unknownCommandCode v b) s = exec .stop s) ∧
    (code = 3 → exec (.unknownCommandCode v b) s = exec .abort s) ∧
    (code = 4 → exec (.unknownCommandCode v b) s = exec .engineReset s) ∧
    (code = 5 → exec (.unknownCommandCode v b) s = exec .poke s) ∧
    (word = 0x00 → exec (.registerWrite off v b) s = exec (.unknownCommandCode v b) s) ∧
    (word = 0x04 → exec (.registerWrite off v b) s = exec (.pokeRegisterWrite v b) s) ∧
    (word = 0x08 → exec (.registerWrite off v b) s = exec (.listHeadWrite false v b) s) ∧
    (word = 0x0C → exec (.registerWrite off v b) s = exec (.listHeadWrite true v b) s) ∧
    (word = 0x1C → exec (.registerWrite off v b) s = exec (.eventsWrite v b) s) ∧
    (word = 0x20 → exec (.registerWrite off v b) s = exec (.eventEnableWrite v b) s) ∧
    (word ∉ [0x00, 0x04, 0x08, 0x0C, 0x1C, 0x20] → exec (.registerWrite off v b) s = .next s)

/-- A write to a word of LIST_HEAD in STOPPED sets its 32 bits, the low three bits of the low word as 0, and
leaves the other word; a byte not written counts as 0 (R24, R193, R198). -/
def Obligations.ListHeadWriteTaken : Prop :=
  ∀ (s : State) (v : Word32) (b : BitVec 4), s.ctl.engine = .stopped →
    ∃ low high, exec (.listHeadWrite false v b) s = .next { s with reader := { s.reader with listHead := low } } ∧
      exec (.listHeadWrite true v b) s = .next { s with reader := { s.reader with listHead := high } } ∧
      low.extractLsb' 32 32 = s.reader.listHead.extractLsb' 32 32 ∧
      low.extractLsb' 0 32 = accessed v b &&& 0xFFFFFFF8#32 ∧
      high.extractLsb' 32 32 = accessed v b ∧ high.extractLsb' 0 32 = s.reader.listHead.extractLsb' 0 32

/-- EVENTS_WRITE clears the flags whose bits are 1 and no other; EVENT_ENABLE_WRITE sets the nine enables; bits at
and above 9 have no effect; the interrupt output follows either, and its rise posts one message, lost while the
link is down; nothing else changes (R190, R191, R198). -/
def Obligations.EventRegisterWrites : Prop :=
  ∀ (s : State) (v : Word32) (b : BitVec 4),
    let follows := fun (t : State) =>
      (t.ctl.irq = true ↔
        ∃ f : Event, t.ctl.events.getLsbD (eventBit f) = true ∧ t.ctl.enables.getLsbD (eventBit f) = true) ∧
      t.port = (if t.ctl.irq && !s.ctl.irq && s.port.linkUp
        then { s.port with outbox := s.port.outbox ++ [.interrupt] } else s.port) ∧
      OnlyChanges [.ctl, .port] s t
    (∃ t, exec (.eventsWrite v b) s = .next t ∧ follows t ∧
      t.ctl = { s.ctl with events := t.ctl.events, irq := t.ctl.irq } ∧
      ∀ i < 9, t.ctl.events.getLsbD i = (s.ctl.events.getLsbD i && !(accessed v b).getLsbD i)) ∧
    ∃ t, exec (.eventEnableWrite v b) s = .next t ∧ follows t ∧
      t.ctl = { s.ctl with enables := t.ctl.enables, irq := t.ctl.irq } ∧
      ∀ i < 9, t.ctl.enables.getLsbD i = (accessed v b).getLsbD i

/-- A read of the low word of CURRENT_RECORD answers the bytes asked for and captures the high word fresh; a read
of the high word answers the fresh capture and uses it up, or the high word as it stands (R193). The answer stands
in the model's own field readData (log entry 8). Every other word reads as what it shows: LIST_HEAD, ENGINE_STATUS
with the codes of its three fields, EVENTS, EVENT_ENABLE, POSITION, HEAD_STATE with a pair for each head, and 0 for
the words that hold nothing; a byte not asked for is 0 (R176, R192, R193). -/
def Obligations.CurrentRecordReads : Prop :=
  ∀ (s : State) (b : BitVec 4),
    exec (.currentRecordLowRead b) s = .next { s with ctl := { s.ctl with
      readData := accessed (s.reader.addr.extractLsb' 0 32) b, capture := some (s.reader.addr.extractLsb' 32 32) } } ∧
    exec (.currentRecordHighRead b) s = .next { s with ctl := { s.ctl with
      readData := accessed (match s.ctl.capture with
        | some w => w
        | none => s.reader.addr.extractLsb' 32 32) b
      capture := none } } ∧
    ∀ (off : BitVec 12),
      let word := (off &&& 0xFFC#12).toNat
      let all := readRegister off 0xF#4 s
      (∀ i < 32, (readRegister off b s).getLsbD i = (b.getLsbD (i / 8) && all.getLsbD i)) ∧
      (word = 0x08 → all = s.reader.listHead.extractLsb' 0 32) ∧
      (word = 0x0C → all = s.reader.listHead.extractLsb' 32 32) ∧
      (word = 0x10 →
        all.extractLsb' 0 8 = (match s.ctl.engine with
          | .stopped => 0 | .running => 1 | .suspended => 2 | .draining => 3 | .halted => 4 | .aborting => 5) ∧
        all.extractLsb' 8 8 = (match s.ctl.cause with
          | .none => 0 | .recordRead => 1 | .layout => 2 | .noLayout => 3 | .starved => 4 | .writeback => 5) ∧
        all.extractLsb' 16 8 = (match s.reader.cond with
          | .reading => 0 | .waitingWindow => 1 | .waitingEdit => 2 | .waitingDrain => 3 | .configuringLayout => 4
          | .suspendedOwner => 5 | .suspendedEnd => 6) ∧
        all.extractLsb' 24 8 = 0) ∧
      (word = 0x1C → all = s.ctl.events.setWidth 32) ∧ (word = 0x20 → all = s.ctl.enables.setWidth 32) ∧
      (word = 0x24 → all = s.posn.pos.line) ∧
      (word = 0x28 → ∀ h : HeadId, all.extractLsb' (2 * h.val) 2 = (match (s.head h).service with
        | .absent | .outOfService => 0 | .inService => 1 | .configuring | .returning => 2 | .parked => 3)) ∧
      (word ∉ [0x08, 0x0C, 0x10, 0x14, 0x18, 0x1C, 0x20, 0x24, 0x28] → all = 0)

/-- CHIP_RESET leaves every piece of state at the value its chapter's table gives: STOPPED with no cause, flag,
enable or interrupt, P at 0 + 0 with the inputs resampled, LIST_HEAD and CURRENT_RECORD 0, no layout, no band, no
page, the reader in READING, empty maps and channels, every head ABSENT with LINK_RESET asserted and its shadow 0 and
unconfirmed, every tag free (R4, R12, R23, R24, R41, R44, R66, R130, R158, R174, R190). The queue and the PCIe link
are kept (log entries 5, 9), and that the return lanes are low is log entry 19 (DESIGN CHOICE). -/
def Obligations.ChipResetLeavesResetValues : Prop :=
  ∀ (s : State) (x y z : Bool), ∃ t, exec (.chipReset x y z) s = .next t ∧
    t.ctl.engine = .stopped ∧ t.ctl.cause = .none ∧ t.ctl.events = 0 ∧ t.ctl.enables = 0 ∧ t.ctl.irq = false ∧
    t.ctl.capture = none ∧
    t.posn = { encA := x, encB := y, pos := { line := 0, frac := 0 }, productLevel := z, lockoutRef := none,
               productQueue := [] } ∧
    t.reader.listHead = 0 ∧ t.reader.addr = 0 ∧ t.reader.cond = .reading ∧ t.reader.pokePending = false ∧
    t.reader.work = .idle ∧ t.layout = none ∧
    t.win.bands = [] ∧ t.win.pages = [] ∧ t.win.openPage = none ∧ t.win.prevPage = none ∧ t.win.firstPage = true ∧ t.win.unbound = [] ∧
    (∀ h, (t.map h).active = [] ∧ (t.map h).staged = none ∧ (t.map h).hold = none) ∧
    (∀ c, (t.chan c).next = none ∧ (t.chan c).deferred = false ∧ (t.chan c).queue = [] ∧
      (t.chan c).slot = .empty ∧ (t.chan c).shipRequest = false ∧ (t.chan c).pulseEnd = none ∧
      (t.chan c).lastFire = none ∧ (t.chan c).compose = none ∧ (t.chan c).live = none) ∧
    (∀ h, (t.head h).service = .absent ∧ (t.head h).returnBand = none ∧ (t.head h).ready = false ∧
      (t.head h).timer = none ∧ (t.head h).queue = [] ∧ (t.head h).link = .resetting 100 ∧
      (t.head h).frame = none ∧ (t.head h).again = none ∧ (t.head h).config = none ∧ (t.head h).lane = [] ∧
      ∀ i : Fin 5, (t.head h).shadow[i].confirmed = false ∧ (t.head h).shadow[i].value = 0) ∧
    (∀ g : TagId, t.port.tags[g] = .free) ∧ t.port.transfers = [] ∧ t.port.grant = none ∧ t.port.failed = [] ∧
    t.tick = 0 ∧ t.pending = s.pending ∧ t.port.linkUp = s.port.linkUp

/-- DRAIN_END and ABORT_END: once the window is empty, nothing is taken and not closed, every unit is issued or
reported and every STAGED set promoted, the engine is STOPPED with STOPPED_EVENT, a record still held is dropped,
and ABORTING clears the page state (R181, R187). By the log: that a STAGED set not promoted (entry 16, DEDUCED) and a
failed unit not reported (entry 4, the model's choice) hold the end back, and that nothing happens while a condition
fails (entry 2, the model's choice). -/
def Obligations.DrainAndAbortEnd : Prop :=
  ∀ s : State,
    let taken := (∃ e n, s.reader.work = .editing e n) ∨ (∃ x l n, s.reader.work = .blockRead x l n) ∨
      ∃ l f n, s.reader.work = .configuring l f n
    let done := s.win.bands = [] ∧ ¬taken ∧ s.port.failed = [] ∧ ∀ h, (s.map h).staged = none
    let ended := fun (w : Window) => raise .stoppedEvent
      { s with ctl := { s.ctl with engine := .stopped }, reader := { s.reader with work := .idle }, win := w }
    (s.ctl.engine = .draining → done → exec .drainEnd s = .next (ended s.win)) ∧
    (s.ctl.engine = .aborting → done → exec .abortEnd s = .next (ended
      { s.win with pages := [], openPage := none, prevPage := none, firstPage := true, unbound := [] })) ∧
    (s.ctl.engine ≠ .draining ∨ ¬done → exec .drainEnd s = .next s) ∧
    (s.ctl.engine ≠ .aborting ∨ ¬done → exec .abortEnd s = .next s)

/-! ## The List Reader -/

/-- HEADER_READ_COMPLETE: a device-owned record of known type goes on to its body read with the header's copy of
NEXT; one of unknown type is closed UNKNOWN_TYPE, TYPE as read, and NEXT followed; a host-owned record, or one
whose address an open band has, is read again for a poke mark, and else suspends the reader with READER_SUSPENDED
(R22, R25, R26, R31). -/
def Obligations.HeaderActedOn : Prop :=
  ∀ (s : State) (x : Nat) (bs : List Byte),
    s.reader.work = .headerRead x → transferBytes s.port x = some bs →
    s.ctl.engine = .running ∨ s.ctl.engine = .suspended →
    let s1 := { s with port := dropTransfer x s.port }
    let owned := (BitVec.ofNat 8 (field bs 0 1)).getLsbD 0 = true ∧ ∀ b ∈ s.win.bands, b.addr ≠ s.reader.addr
    let type := field bs 1 1
    let next := BitVec.ofNat 64 (field bs 8 8) &&& ~~~7#64
    (owned → ∀ k, recordType type = some k →
      exec .headerReadComplete s = .next (startTransfer none (s.reader.addr + 16) (fixedBytes k)
        { s1 with reader := { s.reader with work := .bodyFixed s.port.nextXfer k next } })) ∧
    (owned → recordType type = none →
      exec .headerReadComplete s = .next (followNext next (handOver
        { writes := [(s.reader.addr + 4, 5), (s.reader.addr, BitVec.ofNat 32 (256 * (type % 256)))], notify := false }
        s1))) ∧
    (¬owned → s.reader.pokePending = true →
      exec .headerReadComplete s = .next (startTransfer none s.reader.addr 16
        { s1 with reader := { s.reader with pokePending := false, cond := .reading,
                                            work := .headerRead s.port.nextXfer } })) ∧
    (¬owned → s.reader.pokePending = false →
      exec .headerReadComplete s = .next (raise .readerSuspended
        { s1 with reader := { s.reader with cond := .suspendedOwner, work := .idle }
                  ctl := { s.ctl with engine := .suspended } }))

/-- BODY_READ_COMPLETE: after the fixed part the list is read, if there is one; a record read whole is held. A
band halts the engine with NO_LAYOUT when none is loaded and waits in WAITING_WINDOW at 64 open bands; a staged
edit waits in WAITING_EDIT for its head's STAGED set, any other edit is taken; a layout waits in WAITING_DRAIN for
the window to empty (R26, R28 to R30). That the command falls once for each part of a body is log entry 17, and that a
record which nothing delays stays held until its own step log entry 16 (DEDUCED). -/
def Obligations.BodyHeldByType : Prop :=
  ∀ (s : State) (x : Nat) (k : RecordType) (next : Addr) (bs fixed list : List Byte),
    transferBytes s.port x = some bs → s.ctl.engine = .running ∨ s.ctl.engine = .suspended →
    let s1 := { s with port := dropTransfer x s.port }
    (s.reader.work = .bodyFixed x k next → listBytes k bs ≠ 0 →
      exec .bodyReadComplete s = .next (startTransfer none (s.reader.addr + BitVec.ofNat 64 (16 + fixedBytes k))
        (listBytes k bs) { s1 with reader := { s.reader with work := .bodyList s.port.nextXfer k next bs } })) ∧
    ((s.reader.work = .bodyFixed x k next ∧ listBytes k bs = 0 ∧ fixed = bs ∧ list = []) ∨
      (s.reader.work = .bodyList x k next fixed ∧ list = bs) →
      let holds := fun (c : ReaderCondition) (w : ReaderWork) =>
        { s1 with reader := { s.reader with cond := c, work := w } }
      let body := recordBody k fixed list
      match body with
      | .band _ =>
        exec .bodyReadComplete s = .next (
          if s.layout = none then halt .noLayout (holds s.reader.cond (.held body next false))
          else if 64 ≤ s.win.bands.length then holds .waitingWindow (.held body next false)
          else holds s.reader.cond (.held body next false))
      | .edit e =>
        exec .bodyReadComplete s = .next (
          if e.immediate = false ∧ (s.map e.head).staged ≠ none then holds .waitingEdit (.held body next false)
          else holds s.reader.cond (.editing e next))
      | .layout _ =>
        exec .bodyReadComplete s = .next (
          if s.win.bands = [] then holds s.reader.cond (.held body next false)
          else holds .waitingDrain (.held body next false)))

/-- Following NEXT: an address is read at; 0 costs a read of the NEXT field for a poke mark, and else suspends the
reader at the end of the chain; in DRAINING the address moves without a read, in ABORTING it stays.
NEXT_FIELD_READ_COMPLETE follows the address just read (R27, R32, R34, R35). -/
def Obligations.NextFollowed : Prop :=
  (∀ (s : State) (next : Addr),
    (s.ctl.engine = .running ∨ s.ctl.engine = .suspended →
      (next ≠ 0 → followNext next s = startTransfer none next 16
        { s with reader := { s.reader with addr := next, cond := .reading, work := .headerRead s.port.nextXfer } }) ∧
      (next = 0 → s.reader.pokePending = true → followNext next s = startTransfer none (s.reader.addr + 8) 8
        { s with reader := { s.reader with pokePending := false, cond := .reading,
                                           work := .nextRead s.port.nextXfer } }) ∧
      (next = 0 → s.reader.pokePending = false → followNext next s = raise .readerSuspended
        { s with reader := { s.reader with cond := .suspendedEnd, work := .idle }
                 ctl := { s.ctl with engine := .suspended } })) ∧
    (s.ctl.engine = .draining → followNext next s =
      { s with reader := { s.reader with addr := if next = 0 then s.reader.addr else next, work := .idle } }) ∧
    (s.ctl.engine = .aborting → followNext next s = { s with reader := { s.reader with work := .idle } })) ∧
  ∀ (s : State) (x : Nat) (bs : List Byte), s.reader.work = .nextRead x → transferBytes s.port x = some bs →
    s.ctl.engine = .running ∨ s.ctl.engine = .suspended →
    exec .nextFieldReadComplete s =
      .next (followNext (BitVec.ofNat 64 (field bs 0 8) &&& ~~~7#64) { s with port := dropTransfer x s.port })

/-- RECORD_READ_FAILED halts a working engine with cause RECORD_READ, the reader address kept and the read thrown
away. WRITEBACK_UNIT_FAILED reports the oldest failed unit, of which at most the writes before its control word
have gone out, ahead of the writes of every unit handed over later: a working engine halts with cause WRITEBACK, and
in HALTED and ABORTING WRITEBACK_FAILED is raised and the state and the cause kept (R36, R38, R41, R182). That the
report says how many writes had gone out, never the control word among them, is the model's choice (log entry 4). -/
def Obligations.FailuresHaltTheEngine : Prop :=
  (∀ (s : State) (x : Nat), readerXfer s.reader.work = some x → transferFailed s.port x = true → working s = true →
    ∃ t, exec .recordReadFailed s = .next t ∧
      t.ctl = { s.ctl with engine := .halted, cause := .recordRead,
                           events := s.ctl.events ||| 1#9 <<< eventBit .engineHalted, irq := t.ctl.irq } ∧
      t.reader = { s.reader with work := .idle } ∧ t.port.transfers = s.port.transfers.filter (fun y => y.id ≠ x) ∧
      t.port.tags = s.port.tags ∧ OnlyChanges [.ctl, .reader, .port] s t) ∧
  ∀ (s : State) (f : FailedUnit) (fs : List FailedUnit) (n : Nat), s.port.failed = f :: fs →
    let issued := (f.unit.writes.take (min n (f.unit.writes.length - 1))).flatMap fun w => postedWrite w.1 w.2
    ∃ t, exec (.writebackUnitFailed n) s = .next t ∧
      t.port.failed = fs.map (fun g => { g with place := g.place + issued.length }) ∧
      (∃ after, t.port.outbox =
        s.port.outbox.take f.place ++ issued ++ s.port.outbox.drop f.place ++ after) ∧
      OnlyChanges [.ctl, .reader, .port] s t ∧
      (working s = true → t.ctl.engine = .halted ∧ t.ctl.cause = .writeback ∧
        t.ctl.events = s.ctl.events ||| 1#9 <<< eventBit .engineHalted) ∧
      (s.ctl.engine = .halted ∨ s.ctl.engine = .aborting → t.reader = s.reader ∧
        t.ctl = { s.ctl with events := s.ctl.events ||| 1#9 <<< eventBit .writebackFailed, irq := t.ctl.irq })

/-! ## The Band Window -/

/-- BAND_ADMIT: the held band joins the window's tail with its effective mask and LINES × K owed, or already counted;
it takes the open page's line count, LATE with a LATE page, or opens line 0 of a new page, which ends the open one. A
new triggered page binds with the oldest queued capture, which is used up, its anchor raised to the previous page's end
with the OVERLAP mark, or joins the unbound list; a continuous one binds at P plus OFFSET as the first page, at the
previous page's end plus OFFSET once that has an anchor, slipping with the SLIPPED mark, and otherwise follows it. A
binding returns the heads noted ready in their park. With no page to belong to the band is closed NO_PAGE. The reader
follows its NEXT; where no layout is loaded the engine halts with NO_LAYOUT (R28, R43, R45 to R55, R60, R61, R166).
That the NO_PAGE unit stands in the outbox within the step is log entry 4 (the model's choice), and that a raised or
following anchor is held at 2^48 − 1 is log entry 22 (DEDUCED). -/
def Obligations.BandAdmission : Prop :=
  ∀ (s : State) (b : BandRecord) (next : Addr), s.reader.work = .held (.band b) next false →
    s.ctl.engine = .running → NumberingLaw s → PageOrderLaw s → BandCountLaw s →
    (s.layout = none → ∃ t, exec .bandAdmit s = .next t ∧ t.ctl.engine = .halted ∧ t.ctl.cause = .noLayout ∧
      t.win = s.win ∧ t.reader = s.reader) ∧
    (s.layout ≠ none → s.win.bands.length < 64 →
      let offset := b.offset.toNat
      let capture := (captureOf s.posn.pos).toNat
      let prev := if s.win.firstPage then none else match s.win.openPage with
        | some id => some id
        | none => s.win.prevPage
      let anchorIn := fun (x : PageBinding) (a : BitVec 48) => x = .bound a ∨ x = .late a
      let prevEnd := fun (n : Nat) =>
        ∃ p a, prev = some p.id ∧ findPage s p.id = some p ∧ anchorIn p.binding a ∧ n = a.toNat + 256 * p.count
      let admitted := fun (t : State) (page firstLine : Nat) (e : BandEntry) =>
        t.win.bands.getLast? = some e ∧ e.id = s.win.nextBand ∧ e.addr = s.reader.addr ∧
          e.lines = b.lines.toNat ∧ e.mask = effectiveMask s.layout b.planes ∧ e.notify = b.notify ∧
          e.offset = b.offset ∧ e.page = page ∧ e.firstLine = firstLine ∧ e.CountLaw s.layout ∧
          t.win.bands.map BandEntry.id = s.win.bands.map BandEntry.id ++ [s.win.nextBand]
      let kept := fun (t : State) (queue : List (BitVec 40)) (unbound : List Nat) =>
        t.posn = { s.posn with productQueue := queue } ∧ t.win.unbound = unbound
      let binds := fun (t : State) (e : BandEntry) (k : Page) (a : Nat) (overlap : Bool) =>
        k.binding = boundFrom s b.continuous offset a ∧ HeadsReturned s t e.id ∧ e.overlap = overlap ∧
          e.slipped = (b.continuous && reached s.posn.pos (min a (2 ^ 48 - 1) + oMin s.layout)) ∧
          (e.late = true ↔ ∃ x, k.binding = .late x)
      let waits := fun (t : State) (e : BandEntry) (k : Page) (x : PageBinding) =>
        k.binding = x ∧ e.late = false ∧ e.overlap = false ∧ e.slipped = false ∧
          ∀ h, (t.head h).service = (s.head h).service ∧ (t.head h).returnBand = (s.head h).returnBand
      ∃ t, exec .bandAdmit s = .next t ∧ t.layout = s.layout ∧ t.tick = s.tick ∧ t.posn.pos = s.posn.pos ∧
        t.reader.addr = (if next = 0 then s.reader.addr else next) ∧ t.reader.listHead = s.reader.listHead ∧
        (∀ h, (t.map h).sets = (s.map h).sets) ∧
        (b.pageStart = true → ∃ e k, admitted t s.win.nextPage 0 e ∧ k ∈ t.win.pages ∧ k.id = s.win.nextPage ∧
          k.count = b.lines.toNat ∧ k.ended = b.pageEnd ∧ k.firstBand = e.id ∧ k.continuous = b.continuous ∧
          k.pred = prev ∧ t.win.openPage = (if b.pageEnd then none else some k.id) ∧
          t.win.prevPage = (if b.pageEnd then some k.id else match s.win.openPage with
            | some id => some id
            | none => s.win.prevPage) ∧
          t.win.firstPage = false ∧ t.win.nextPage = s.win.nextPage + 1 ∧
          (∀ q ∈ t.win.pages, q.id ≠ k.id → ∃ p ∈ s.win.pages,
            q = { p with ended := p.ended || decide (s.win.openPage = some p.id) }) ∧
          (b.continuous = false → s.posn.productQueue = [] →
            kept t [] (s.win.unbound ++ [k.id]) ∧ waits t e k .unbound) ∧
          (∀ q qs, b.continuous = false → s.posn.productQueue = q :: qs → kept t qs s.win.unbound ∧
            (∀ n, prevEnd n → binds t e k (max (q.toNat + offset) n) (decide (q.toNat + offset < n))) ∧
            ((∀ n, ¬prevEnd n) → binds t e k (q.toNat + offset) false)) ∧
          (b.continuous = true → kept t s.posn.productQueue s.win.unbound ∧
            (prev = none → binds t e k (capture + offset) false) ∧
            (∀ n, prevEnd n → binds t e k (n + offset) false) ∧
            (prev ≠ none → (∀ n, ¬prevEnd n) → waits t e k .following))) ∧
        (∀ p, b.pageStart = false → s.win.openPage = some p.id → findPage s p.id = some p →
          ∃ e k, admitted t p.id p.count e ∧ k ∈ t.win.pages ∧
            k = { p with count := min (p.count + b.lines.toNat) (2 ^ 48 - 1), ended := p.ended || b.pageEnd } ∧
            (e.late = true ↔ ∃ a, p.binding = .late a) ∧ e.overlap = false ∧ e.slipped = false ∧
            kept t s.posn.productQueue s.win.unbound ∧
            t.win.openPage = (if b.pageEnd then none else some p.id) ∧
            t.win.prevPage = (if b.pageEnd then some p.id else s.win.prevPage)) ∧
        (b.pageStart = false → s.win.openPage = none →
          t.win.bands.map BandEntry.plan = s.win.bands.map BandEntry.plan ∧
          (s.port.linkUp = true → ∃ after, t.port.outbox = s.port.outbox ++
            ((s.reader.addr + 4, resultWord .noPage 0 0) ::
              (((List.range 7).map fun i => (s.reader.addr + BitVec.ofNat 64 (24 + 4 * i), (0 : Word32))) ++
                [(s.reader.addr + 52, s.posn.pos.line), (s.reader.addr, 0x100)])).flatMap
              (fun w => postedWrite w.1 w.2) ++ after)))

/-- BAND_CLOSE: the head band leaves with code LATE if it has the mark, with DONE if its page is BOUND and it owes
nothing, and with ABORTED in ABORTING, and otherwise stays. Its unit carries RESULT, the six counts (0 for LATE),
the anchor's integer part on its page's first band, the integer part of P, and then the control word; RECORD_CLOSED
follows for NOTIFY; the window's other bands, the sets and the reader are kept, and every waiting count that is not
0 falls by 1 (R37, R58 to R61, R64, R91). -/
def Obligations.HeadBandCloses : Prop :=
  ∀ (s : State) (b : BandEntry) (bs : List BandEntry), s.win.bands = b :: bs →
    let bound := ∃ p a, findPage s b.page = some p ∧ p.binding = .bound a
    let closes := fun (code : ResultCode) =>
      let n := fun (k : Nat) => if code = .late then (0#32 : Word32) else BitVec.ofNat 32 k
      let flags := bandFlags (if code = .late
        then { b with fired := 0, starved := 0, dropped := 0, skipped := 0, dataFaults := 0, lost := 0 } else b)
      let u : WriteUnit :=
        { writes := [(b.addr + 4, BitVec.ofNat 32 (resultCode code + 256 * flags.toNat)), (b.addr + 24, n b.fired),
            (b.addr + 28, n b.starved), (b.addr + 32, n b.dropped), (b.addr + 36, n b.skipped),
            (b.addr + 40, n b.dataFaults), (b.addr + 44, n b.lost),
            (b.addr + 48, BitVec.ofNat 32 (anchorField s b)), (b.addr + 52, s.posn.pos.line), (b.addr, 0x100)]
          notify := b.notify }
      ∃ t, exec .bandClose s = .next t ∧ t.win.bands = bs ∧ t.port = (handOver u s).port ∧
        t.ctl = (handOver u s).ctl ∧
        (∀ h, (t.map h).active = (s.map h).active ∧
          (t.map h).staged = (s.map h).staged.map fun st => { st with waiting := st.waiting - 1 }) ∧
        OnlyChanges [.win, .port, .ctl, .maps, .chans, .heads] s t
    (s.ctl.engine = .aborting → closes .aborted) ∧
    (working s = true → b.late = true → closes .late) ∧
    (working s = true → b.late = false → bound → b.outstanding = 0 → closes .done) ∧
    (working s = true → b.late = false → ¬(bound ∧ b.outstanding = 0) → exec .bandClose s = .next s) ∧
    (s.ctl.engine = .stopped ∨ s.ctl.engine = .halted → exec .bandClose s = .next s)

/-- A unit handed over with the link up is posted whole, its writes in order, with RECORD_CLOSED after it for
NOTIFY; with the link down nothing of it is posted and it waits to be reported as failed, its place in the order kept
(R37, R38, R41). That a unit is posted whole in the step that hands it over is the model's choice (log entry 4). -/
def Obligations.WriteBackUnitPosted : Prop :=
  ∀ (u : WriteUnit) (s : State),
    let posted := { s with port := { s.port with
      outbox := s.port.outbox ++ u.writes.flatMap fun w => postedWrite w.1 w.2 } }
    (s.port.linkUp = true → u.notify = true → handOver u s = raise .recordClosed posted) ∧
    (s.port.linkUp = true → u.notify = false → handOver u s = posted) ∧
    (s.port.linkUp = false → handOver u s = { s with port := { s.port with
      failed := s.port.failed ++ [{ unit := u, place := s.port.outbox.length }] } })

/-! ## The Nozzle Map Store -/

/-- ADD takes its indices one at a time in record order: at or above the limit an index is not inserted and sets
INDEX_IGNORED, one already there is passed over, any other is inserted in its ascending place while the set holds
fewer than 128, and else sets CAPACITY (R88). REMOVE takes out the listed indices, REPLACE is ADD onto the empty
set, neither sets CAPACITY, and an index at or above the limit sets INDEX_IGNORED (R89). -/
def Obligations.EditOperations : Prop :=
  (∀ (limit : Nat) (is : List Nat) (i : Nat) (set : List Nat),
    let r := applyEdit .add limit is set
    applyEdit .add limit [] set = { set := set, ignored := false, capacity := false } ∧
    applyEdit .add limit (is ++ [i]) set =
      if limit ≤ i then { r with ignored := true }
      else if i ∈ r.set then r
      else if r.set.length < 128 then { r with set := insertAscending i r.set }
      else { r with capacity := true }) ∧
  (∀ (i : Nat) (set : List Nat),
    (∀ x, x ∈ insertAscending i set ↔ x = i ∨ x ∈ set) ∧
    (set.Pairwise (· < ·) → i ∉ set → (insertAscending i set).Pairwise (· < ·))) ∧
  ∀ (limit : Nat) (is set : List Nat), (∀ x ∈ set, x < limit) →
    applyEdit .remove limit is set =
      { set := set.filter fun x => decide (x ∉ is), ignored := is.any fun i => decide (limit ≤ i), capacity := false } ∧
    applyEdit .replace limit is set = applyEdit .add limit is [] ∧
    (is.length ≤ 64 → (applyEdit .replace limit is set).capacity = false ∧
      (applyEdit .replace limit is set).ignored = is.any fun i => decide (limit ≤ i)) ∧
    (applyEdit .replace limit [] set).set = [] ∧ (applyEdit .add limit [] set).set = set ∧
    (applyEdit .remove limit [] set).set = set

/-- NOZZLE_EDIT_STAGED forms the head's STAGED set from a copy of ACTIVE with the window's band count, or, with no
band open, makes it ACTIVE at once; the record is closed DONE with its flags and NEXT followed, and nothing is
flushed (R87, R90, R98). STAGED_PROMOTION at waiting count 0 makes the STAGED set ACTIVE, and an edit held in
WAITING_EDIT for the head is then carried out (R92); in HALTED it changes no set (R183; log entry 16, DEDUCED). -/
def Obligations.StagedEditsAndPromotion : Prop :=
  (∀ (s : State) (e : EditRecord) (next : Addr), s.reader.work = .editing e next → e.immediate = false →
    e.op ≠ .noOperation → working s = true ∨ s.ctl.engine = .aborting →
    let m := s.map e.head
    let r := applyEdit e.op (nozzleLimit s.layout e.head) e.indices m.active
    let m1 := if s.win.bands = [] then { m with active := r.set }
      else { m with staged := some { set := r.set, waiting := s.win.bands.length } }
    exec .nozzleEditStaged s = .next (followNext next (handOver
      { writes := [(s.reader.addr + 4, BitVec.ofNat 32 (1 + 256 * (r.ignored.toNat + 2 * r.capacity.toNat))),
                   (s.reader.addr, 0x200)]
        notify := e.notify }
      { s with maps := s.maps.set e.head m1 }))) ∧
  (∀ (s : State) (h : HeadId), s.ctl.engine = .halted → exec (.stagedPromotion h) s = .next s) ∧
  ∀ (s : State) (h : HeadId) (st : StagedSet), (s.map h).staged = some st → st.waiting = 0 →
    s.ctl.engine ≠ .halted →
    let promoted := { s with maps := s.maps.set h { s.map h with active := st.set, staged := none } }
    ((∀ e n, s.reader.work = .held (.edit e) n false → e.head ≠ h) →
      exec (.stagedPromotion h) s = .next promoted) ∧
    ∀ e n, s.reader.work = .held (.edit e) n false → e.head = h → e.immediate = false → s.ctl.engine = .running →
      exec (.stagedPromotion h) s = exec .nozzleEditStaged
        { promoted with reader := { s.reader with cond := .reading, work := .editing e n } }

/-- NOZZLE_EDIT_IMMEDIATE, with no hold on its head or a partner: the operation is applied to ACTIVE and to a
STAGED set, each copy's flags in RESULT. Where a set changes while channels work, the lines then shipped on the seam's
channels are pinned to the sets as they were, every channel of the head and its partners is flushed, and then the
record is closed DONE and NEXT followed; otherwise nothing is flushed. A flushed channel has no live composition and
no line fetch in flight, and keeps its shipped line and no other; unless a deferred line is discarded with its queue,
it composes on from the line after the shipped one, or from its next line, and nothing else changes (R29, R94 to R98,
R100, R124 to R126). What a flush that halts the engine leaves of the close is log entry 13, and which fetches it
discards log entry 28 (DEDUCED). -/
def Obligations.ImmediateEditFlushesSeam : Prop :=
  ∀ (s : State) (e : EditRecord) (next : Addr), s.reader.work = .editing e next → e.immediate = true →
    working s = true ∨ s.ctl.engine = .aborting → (s.map e.head).hold = none →
    (∀ g ∈ partners s.layout e.head, (s.map g).hold = none) →
    let m := s.map e.head
    let limit := nozzleLimit s.layout e.head
    let a := applyEdit e.op limit e.indices m.active
    let b := m.staged.map fun st => applyEdit e.op limit e.indices st.set
    let staged := m.staged.map fun st => { st with set := (applyEdit e.op limit e.indices st.set).set }
    let ignored := a.ignored || (b.map EditResult.ignored).getD false
    let capacity := a.capacity || (b.map EditResult.capacity).getD false
    let changed := a.set ≠ m.active ∨ staged ≠ m.staged
    let closed := fun (u : State) => followNext next (handOver
      { writes := [(s.reader.addr + 4, BitVec.ofNat 32 (1 + 256 * (ignored.toNat + 2 * capacity.toNat))),
                   (s.reader.addr, 0x200)]
        notify := e.notify } u)
    let seam := seamChans s e.head
    let pins := seam.filterMap fun c => match (s.chan c).slot with
      | .shipped r => some { band := r.band, line := r.line, set := mapVersion m s.win.bands r.band }
      | .empty | .transit _ => none
    let hold : Option Hold :=
      if pins = [] then none else some { active := m.active, staged := m.staged.map StagedSet.set, pins := pins }
    let edited := { s with maps := s.maps.set e.head { active := a.set, staged := staged, hold := hold } }
    let t := seam.foldl (fun u c => flush c u) edited
    (¬changed ∨ s.ctl.engine = .aborting → exec .nozzleEditImmediate s =
      .next (closed { s with maps := s.maps.set e.head { m with active := a.set, staged := staged } })) ∧
    (changed → working s = true →
      exec .nozzleEditImmediate s = .next (closed t) ∧
      (t.map e.head).active = a.set ∧ (t.map e.head).staged = staged ∧
      (∀ h, h ≠ e.head → (t.map h).sets = (s.map h).sets) ∧
      (∀ c ∈ seam, (t.chan c).live = none ∧ (∀ x ∈ (t.chan c).queue, (s.chan c).slot = .shipped x.ref) ∧
        (∀ y ∈ t.port.transfers, ∀ r, y.fetch ≠ some (c, r)) ∧
        ((∃ r, (s.chan c).slot = .transit r) → ∀ f, (t.head (headOf c)).frame = some f →
          ∀ r levels, f.body = .line (rowOf c) r levels → f.withdrawn = true)) ∧
      (∀ c, c ∉ seam → t.chan c = s.chan c) ∧ t.posn = s.posn ∧ t.layout = s.layout ∧ t.tick = s.tick ∧
      t.reader.addr = s.reader.addr ∧ t.port.failed = s.port.failed ∧
      ((∀ c ∈ seam, (s.chan c).deferred = true → nextShipped (s.chan c) = true) →
        t.maps = edited.maps ∧ t.win = s.win ∧ t.ctl = s.ctl ∧ t.reader = s.reader ∧
        ∀ c ∈ seam, (t.chan c).next = (s.chan c).next ∧ (t.chan c).deferred = (s.chan c).deferred ∧
          (t.chan c).shipRequest = false ∧ (t.chan c).pulseEnd = (s.chan c).pulseEnd ∧
          (t.chan c).lastFire = (s.chan c).lastFire ∧
          (∀ r, (s.chan c).slot = .shipped r → (t.chan c).slot = .shipped r ∧
            (t.chan c).queue = (s.chan c).queue.filter (fun x => x.ref = r) ∧
            ((s.head (headOf c)).returnBand = none → (t.chan c).compose = lineAfter s c r)) ∧
          ((∀ r, (s.chan c).slot ≠ .shipped r) → (t.chan c).slot = .empty ∧ (t.chan c).queue = [] ∧
            ((s.head (headOf c)).returnBand = none → (t.chan c).compose = (s.chan c).next))))

/-! ## The Layout Store -/

/-- LAYOUT_TAKEN, with the window empty and every STAGED set promoted, begins the 832-byte read of the block.
LAYOUT_RECORD_CLOSE, with no head CONFIGURING, closes the record DONE with its flags and the heads then PARKED as
park mask, and follows NEXT (R30, R67, R68, R80, R81, R195). -/
def Obligations.LayoutRecordTakenAndClosed : Prop :=
  (∀ (s : State) (l : LayoutRecord) (next : Addr), s.reader.work = .held (.layout l) next false →
    s.ctl.engine = .running → s.win.bands = [] → (∀ h, (s.map h).staged = none) →
    exec .layoutTaken s = .next (startTransfer none l.block 832
      { s with reader := { s.reader with cond := .reading, work := .blockRead s.port.nextXfer l next } })) ∧
  ∀ (s : State) (l : LayoutRecord) (flags : BitVec 8) (next : Addr),
    s.reader.work = .configuring l flags next → working s = true → (∀ h, (s.head h).service ≠ .configuring) →
    ∃ mask : BitVec 16, (∀ h : HeadId, mask.getLsbD h.val = decide ((s.head h).service = .parked)) ∧
      exec .layoutRecordClose s = .next (followNext next (handOver
        { writes := [(s.reader.addr + 4, mask ++ flags ++ 1#8), (s.reader.addr, 0x300)], notify := l.notify } s))

/-- A block is judged by the seven checks in order and the first that fails gives the reason; none fails exactly
when every width is at most 65,536, every present head's plane has a width, NOZZLES is a multiple of 64 from 256 to
4,096, every span lies in its plane, and of one plane's heads no span lies within another, no column is in three
spans and neighbours share at most 64 columns (R70). A rejected block leaves the layout, closes the record REJECTED
with the reason in RESULT and halts the engine with cause LAYOUT (R71). -/
def Obligations.LayoutJudgedAndRejected : Prop :=
  (∀ b : LayoutBlock,
    let present := fun (h : Nat) (r : RawHead) => b.heads[h]? = some (some r)
    let column := fun (r : RawHead) (x : Nat) => r.firstColumn ≤ x ∧ x < r.firstColumn + r.nozzles
    (∀ n, judge b = some n ↔ 1 ≤ n ∧ n ≤ 7 ∧ checkFails b n = true ∧ ∀ m, 1 ≤ m → m < n → checkFails b m = false) ∧
    (judge b = none ↔
      (∀ w ∈ b.widths, w ≤ 65536) ∧
      (∀ h r, present h r → r.plane < 8 ∧ b.widths.getD r.plane 0 ≠ 0 ∧ 256 ≤ r.nozzles ∧ r.nozzles ≤ 4096 ∧
        r.nozzles % 64 = 0 ∧ r.firstColumn + r.nozzles ≤ b.widths.getD r.plane 0) ∧
      (∀ h r k q, present h r → present k q → h ≠ k → r.plane = q.plane →
        (∃ x, column r x ∧ ¬column q x) ∧
        (∀ j u, present j u → j ≠ h → j ≠ k → u.plane = r.plane → ¬∃ x, column r x ∧ column q x ∧ column u x) ∧
        (r.firstColumn < q.firstColumn →
          (∀ j u, present j u → u.plane = r.plane → ¬(r.firstColumn < u.firstColumn ∧ u.firstColumn < q.firstColumn)) →
          r.firstColumn + r.nozzles ≤ q.firstColumn + 64)))) ∧
  ∀ (s : State) (x : Nat) (l : LayoutRecord) (next : Addr) (bs : List Byte) (reason : Nat),
    s.reader.work = .blockRead x l next → transferBytes s.port x = some bs → working s = true →
    judge (layoutBlock bs) = some reason →
    exec .layoutBlockReadComplete s = .next (halt .layout (handOver
      { writes := [(s.reader.addr + 4, BitVec.ofNat 32 (6 + 256 * reason)), (s.reader.addr, 0x300)], notify := l.notify }
      { s with port := dropTransfer x s.port, reader := { s.reader with work := .idle } }))

/-- An accepted block is applied in one step: the layout is the block's, field by field, with its four clamps; every
head takes its service from its new entry, a configuration with one request beginning on each CONFIGURING head; every
channel is as after chip reset but for its last fire tick and, on a present head, a pulse in progress; the ACTIVE sets
of present heads are trimmed to NOZZLES; the reader is in CONFIGURING_LAYOUT with the flag byte that says what was
clamped and whether a set was trimmed; P, the product queue, the links, the shadows, the engine and the clock are
kept, and frames in flight are overtaken (R69, R72, R73, R76, R78 to R80, R151). A resend or repeat not yet begun is
dropped (log entry 18, DEDUCED). -/
def Obligations.LayoutAppliedInOneStep : Prop :=
  ∀ (s : State) (x : Nat) (l : LayoutRecord) (next : Addr) (bs : List Byte),
    s.reader.work = .blockRead x l next → transferBytes s.port x = some bs → working s = true →
    judge (layoutBlock bs) = none →
    let b := layoutBlock bs
    ∃ (t : State) (lay : Layout) (flags : BitVec 8), exec .layoutBlockReadComplete s = .next t ∧ t.layout = some lay ∧
      lay.increment = max 1 (min b.increment 16777216) ∧ lay.lockout = b.lockout ∧
      lay.invert = b.options.getLsbD 0 ∧ lay.haltPolicy = b.options.getLsbD 1 ∧ lay.falling = b.options.getLsbD 2 ∧
      (∀ p : Fin 8, lay.widths[p] = b.widths.getD p.val 0) ∧ (∀ i : Fin 256, lay.tile[i] = b.tile.getD i.val 0) ∧
      (∀ h : HeadId, (b.heads.getD h.val none = none → lay.heads[h] = none) ∧
        ∀ r, b.heads.getD h.val none = some r → ∃ e, lay.heads[h] = some e ∧ e.plane.val = r.plane % 8 ∧
          e.inService = r.inService ∧ e.firstColumn = r.firstColumn ∧ e.nozzles = r.nozzles ∧
          e.period = max 500 (min r.period 65535) ∧ e.trim = max (-64) (min r.trim 63) ∧
          e.lanes = (if r.lanes = 2 ∨ r.lanes = 4 then r.lanes else 1) ∧ e.headOffset = r.headOffset ∧
          e.rowOffset = r.rowOffset ∧ e.waveform = BitVec.ofNat 4 r.waveform ∧ e.level1 = BitVec.ofNat 3 r.level1 ∧
          e.level2 = BitVec.ofNat 3 r.level2 ∧ e.level3 = BitVec.ofNat 3 r.level3) ∧
      (flags.getLsbD 0 = true ↔ b.increment < 1 ∨ 16777216 < b.increment) ∧
      (flags.getLsbD 1 = true ↔ ∃ r, some r ∈ b.heads ∧ (r.period < 500 ∨ 65535 < r.period)) ∧
      (flags.getLsbD 2 = true ↔ ∃ r, some r ∈ b.heads ∧ r.lanes ≠ 1 ∧ r.lanes ≠ 2 ∧ r.lanes ≠ 4) ∧
      (flags.getLsbD 3 = true ↔ ∃ r, some r ∈ b.heads ∧ (r.trim < -64 ∨ 63 < r.trim)) ∧
      (flags.getLsbD 4 = true ↔ ∃ (h : HeadId) (e : HeadEntry), lay.heads[h] = some e ∧
        ∃ i ∈ (s.map h).active, e.nozzles ≤ i) ∧
      flags.getLsbD 5 = false ∧ flags.getLsbD 6 = false ∧ flags.getLsbD 7 = false ∧
      t.reader = { s.reader with cond := .configuringLayout, work := .configuring l flags next } ∧
      (∀ c, t.chan c = { Channel.reset with
        lastFire := (s.chan c).lastFire
        pulseEnd := if lay.heads[headOf c] = none then none else (s.chan c).pulseEnd }) ∧
      (∀ h, (t.map h).active = (match lay.heads[h] with
        | some e => (s.map h).active.filter fun i => decide (i < e.nozzles)
        | none => (s.map h).active) ∧ (t.map h).staged = (s.map h).staged ∧ (t.map h).hold = (s.map h).hold) ∧
      (∀ h, (t.head h).service = (match lay.heads[h] with
          | none => .absent
          | some e => if e.inService then .configuring else .outOfService) ∧
        (t.head h).returnBand = none ∧ (t.head h).ready = false ∧ (t.head h).timer = none ∧
        (t.head h).link = (s.head h).link ∧ (t.head h).shadow = (s.head h).shadow ∧
        (t.head h).frame = (s.head h).frame.map (fun f => { f with stale := true }) ∧ (t.head h).again = none ∧
        ((t.head h).service = .configuring → (t.head h).config = some false ∧
          ∃ k, (k = .config ∨ k = .query) ∧ (t.head h).queue = [{ kind := k, joined := s.tick }]) ∧
        ((t.head h).service ≠ .configuring → (t.head h).config = none ∧ (t.head h).queue = [])) ∧
      OnlyChanges [.layout, .reader, .chans, .maps, .heads, .port] s t

/-! ## The Memory Port -/

/-- READ_COMPLETION: bytes are kept until the request has all of them; the last frees the tag and gives the
request's bytes to its transfer; an error frees the tag and fails the transfer, whose other requests are not
issued; a completion for a free tag, or one held after a timeout, is thrown away (R39, R40). That a completion for a
held tag leaves the tag held is log entry 23 (DEDUCED). -/
def Obligations.ReadCompletions : Prop :=
  ∀ (s : State) (tag : TagId) (data : List Byte),
    (s.port.tags[tag] = .free ∨ (∃ e, s.port.tags[tag] = .hold e) →
      ∀ ok, exec (.readCompletion tag ok data) s = .next s) ∧
    ∀ x i a len got issued, s.port.tags[tag] = .request x i a len got issued →
      let all := got ++ data.take (len - got.length)
      let freed := { s.port with tags := s.port.tags.set tag .free }
      (all.length < len → exec (.readCompletion tag true data) s =
        .next { s with port := { s.port with tags := s.port.tags.set tag (.request x i a len all issued) } }) ∧
      (len ≤ all.length → exec (.readCompletion tag true data) s =
        .next (pump { s with port := { freed with transfers := s.port.transfers.map fun t =>
          if t.id = x then { t with inFlight := t.inFlight - 1, chunks := insertChunk (i, all) t.chunks } else t } })) ∧
      ∃ t : State, exec (.readCompletion tag false data) s = .next (pump t) ∧
        t.port.tags = s.port.tags.set tag .free ∧ OnlyChanges [.port] s t ∧
        t.port.transfers = s.port.transfers.map (fun y => if y.id = x then { y with failed := true, todo := [] } else y) ∧
        t.port.outbox = s.port.outbox ∧ t.port.failed = s.port.failed ∧ t.port.linkUp = s.port.linkUp

/-- READ_REQUEST_TIMEOUT, 5,000 ticks after the issue, fails the transfer and holds the tag for 50,000 ticks more;
TAG_HOLD_EXPIRY then frees it; PCIE_LINK_DOWN and PCIE_LINK_UP set the link and nothing else (R40, R41). The clock
stands at the tick at which each falls, or later (log entry 1). -/
def Obligations.TimeoutsAndLinkState : Prop :=
  (∀ (s : State) (tag : TagId) (x i : Nat) (a : Addr) (len : Nat) (got : List Byte) (issued : Nat),
    s.port.tags[tag] = .request x i a len got issued →
    ∃ t, exec (.readRequestTimeout tag) s = .next t ∧ t.tick = max s.tick (issued + 5000) ∧
      t.port.tags = s.port.tags.set tag (.hold (t.tick + 50000)) ∧
      t.port.transfers = s.port.transfers.map (fun y => if y.id = x then { y with failed := true, todo := [] } else y) ∧
      t.port.outbox = s.port.outbox ∧ t.port.failed = s.port.failed ∧ OnlyChanges [.port, .tick] s t) ∧
  (∀ (s : State) (tag : TagId) (ends : Nat), s.port.tags[tag] = .hold ends →
    exec (.tagHoldExpiry tag) s =
      .next (pump { s with tick := max s.tick ends, port := { s.port with tags := s.port.tags.set tag .free } })) ∧
  ∀ s : State,
    exec .pcieLinkDown s = .next { s with port := { s.port with linkUp := false } } ∧
    exec .pcieLinkUp s = .next { s with port := { s.port with linkUp := true } }

/-- A read is cut into requests in address order that cover it exactly, each of 1 to 256 bytes within one 4 KiB
page and ending at 256 bytes, at the page's end or at the read's (R39). Beginning a transfer touches the Memory
Port alone: it numbers and lists the transfer, and what can be issued is issued: in address order each request takes a
free tag, the List Reader's transfer until it has two in flight or no tag is free, the line fetch that the read engine
holds until fewer than three are free. With the link down the first request that could be issued fails its transfer
(R39, R40, R110). -/
def Obligations.ReadsCutIntoRequests : Prop :=
  (∀ (a : Addr) (len : Nat),
    let rs := cutRead (len + 1) a len
    (rs.map Prod.snd).sum = len ∧
    ∀ before r after, rs = before ++ r :: after →
      r.1 = a + BitVec.ofNat 64 (before.map Prod.snd).sum ∧ 1 ≤ r.2 ∧ r.2 ≤ 256 ∧
      r.1.toNat % 4096 + r.2 ≤ 4096 ∧ (r.2 = 256 ∨ r.1.toNat % 4096 + r.2 = 4096 ∨ after = [])) ∧
  (∀ (f : Option (ChanId × LineRef)) (a : Addr) (len : Nat) (s : State),
    let t := startTransfer f a len s
    OnlyChanges [.port] s t ∧ t.port.nextXfer = s.port.nextXfer + 1 ∧ t.port.linkUp = s.port.linkUp ∧
    t.port.failed = s.port.failed ∧ t.port.outbox = s.port.outbox ∧
    (∀ y ∈ t.port.transfers, ∃ z ∈ s.port.transfers ++
      [{ id := s.port.nextXfer, fetch := f, todo := cutRead (len + 1) a len, nextIndex := 0, inFlight := 0,
         chunks := [], failed := false }], y.id = z.id ∧ y.fetch = z.fetch) ∧
    (∀ g : TagId, s.port.tags[g] ≠ .free → t.port.tags[g] = s.port.tags[g]) ∧
    t = pump { s with port := { s.port with
      transfers := s.port.transfers ++ [{ id := s.port.nextXfer, fetch := f, todo := cutRead (len + 1) a len,
                                          nextIndex := 0, inFlight := 0, chunks := [], failed := false }]
      nextXfer := s.port.nextXfer + 1
      grant := if f = none then s.port.grant else some s.port.nextXfer } }) ∧
  ∀ (s : State) (y : Transfer),
    let record := s.port.transfers.find? (fun x => x.fetch.isNone) = some y ∧ s.port.grant ≠ some y.id
    let fetch := s.port.grant = some y.id ∧ findTransfer s.port y.id = some y ∧
      ∀ x ∈ s.port.transfers, x.fetch = none → x.id ≠ y.id
    let t := pump s
    (s.port.linkUp = true → record ∨ fetch →
      ∃ n, n ≤ y.todo.length ∧
        findTransfer t.port y.id =
          some { y with todo := y.todo.drop n, inFlight := y.inFlight + n, nextIndex := y.nextIndex + n } ∧
        (record → (y.todo.drop n = [] ∨ 2 ≤ y.inFlight + n ∨ freeTags t.port = 0) ∧ (n = 0 ∨ y.inFlight + n ≤ 2)) ∧
        (fetch → (y.todo.drop n = [] ∨ freeTags t.port < 3) ∧ (n = 0 ∨ 2 ≤ freeTags t.port)) ∧
        ∀ i r, (y.todo.take n)[i]? = some r → ∃ g : TagId, s.port.tags[g] = .free ∧
          t.port.tags[g] = .request y.id (y.nextIndex + i) r.1 r.2 [] s.tick) ∧
    (s.port.linkUp = false → y.todo ≠ [] →
      (record ∧ y.inFlight < 2 ∧ 0 < freeTags s.port) ∨ (fetch ∧ 3 ≤ freeTags s.port) →
      findTransfer t.port y.id = some { y with todo := [], failed := true } ∧ t.port.tags = s.port.tags)

/-! ## Line composition -/

/-- The source line is FIRST + k, or its remainder by a TILE that is not 0, formed without wrap; a TILE of 1 or a
STRIDE of 0 makes every line of the band read the same line (R106). In the bytes fetched for columns col to
col + n - 1, column x is the pair of bits 2(x mod 4) of the line's byte x / 4, a level of 0 to 3 (R107, R108). -/
def Obligations.SourceLinesAndLevels : Prop :=
  (∀ (e : PlaneSource) (k : Nat), k ≤ 65534 →
    sourceLine e k = (if e.tile = 0 then e.first.toNat + k else (e.first.toNat + k) % e.tile.toNat) ∧
    e.first.toNat + k < 2 ^ 17) ∧
  (∀ (e : PlaneSource) (k j col : Nat), e.tile = 1 ∨ e.stride = 0 → fetchAddr e k col = fetchAddr e j col) ∧
  ∀ (line : List Byte) (col n x : Nat), col ≤ x → x < col + n →
    let fetched := (line.drop (col / 4)).take (fetchLen col n)
    let byte := (line.getD (x / 4) 0).toNat
    sourceLevel fetched col x = byte / 2 ^ (2 * (x % 4)) % 4 ∧ sourceLevel fetched col x ≤ 3

/-- Step 1 gives overlap column x to the left head exactly when the tile value is below the threshold, which falls
along the overlap and stays from 3 to 255, so that 255 always gives it to the right head and 0 to the left (R116).
Step 3 passes a column whose owner's nozzle is dead to the other head when its nozzle is alive, and nothing else
(R118); so of two heads that serve the band exactly one owns each column, and next to a head that does not serve it
the other owns them all. -/
def Obligations.SeamColumnsOwnedOnce : Prop :=
  ∀ (tile : Vector Byte 256) (n : Nat) (left right : SeamHead) (x : Nat),
    let w := left.entry.firstColumn + left.entry.nozzles - right.entry.firstColumn
    let j := x - right.entry.firstColumn
    let v := (tile[16 * (n % 16) + x % 16]'(by omega)).toNat
    let l := leftOwns tile n left.entry right.entry x
    1 ≤ w → w ≤ 64 → right.entry.firstColumn ≤ x → x < right.entry.firstColumn + w →
    (l = true ↔ v < 256 * (w - j) / (w + 1)) ∧ seamThreshold w (j + 1) < seamThreshold w j ∧
    3 ≤ seamThreshold w j ∧ seamThreshold w j ≤ 255 ∧ (v = 255 → l = false) ∧ (v = 0 → l = true) ∧
    (left.serves = true → right.serves = true →
      (ownsSeam tile n left right true x = true ↔
        (l = true ∧ ¬(deadAt left x = true ∧ deadAt right x = false)) ∨
        (l = false ∧ deadAt right x = true ∧ deadAt left x = false)) ∧
      ownsSeam tile n right left false x = !ownsSeam tile n left right true x) ∧
    (right.serves = false → ownsSeam tile n left right true x = true) ∧
    (left.serves = false → ownsSeam tile n right left false x = true)

/-- Compensation leaves every dead nozzle at level 0 and every level at most 3, and what the owned columns held is
either still there or counted lost, by the row of the dead nozzle: nothing is made and nothing else disappears. A
nozzle that is neither dead nor next to a dead one keeps its level (R120 to R122). -/
def Obligations.CompensationKeepsLevels : Prop :=
  ∀ (source : List Nat) (owned : List Bool) (dead : List Nat),
    owned.length = source.length → (∀ v ∈ source, v ≤ 3) →
    let out := composeLevels source owned dead
    let start := (source.zip owned).map fun p => if p.2 then p.1 else 0
    out.levels.length = source.length ∧ (∀ i ∈ dead, out.levels.getD i 0 = 0) ∧ (∀ v ∈ out.levels, v ≤ 3) ∧
    out.levels.sum + out.lostA + out.lostB = start.sum ∧
    ((∀ i ∈ dead, i % 2 = 0) → out.lostB = 0) ∧ ((∀ i ∈ dead, i % 2 = 1) → out.lostA = 0) ∧
    ∀ i, i ∉ dead → i + 1 ∉ dead → (∀ k ∈ dead, i ≠ k + 1) → out.levels.getD i 0 = start.getD i 0

/-- FETCH_GRANT, with the read engine free and three tags free, is granted to the requesting channel whose line's
target is earliest, on equal targets the lowest channel; a live composition begins and the bytes of the head's
columns are fetched. A channel requests exactly while channels work, its compose line has a target, its head serves
the band, no composition is live and fewer than 32 lines are queued (R105, R107, R109, R110). That two targets which
overflow 48 bits are compared by their exact sums is the model's choice (log entry 14). -/
def Obligations.FetchGrantedToEarliestTarget : Prop :=
  ∀ (s : State) (c : ChanId) (r : LineRef) (n : Nat),
    (fetchRequest s c = some (r, n) ↔ working s = true ∧ (s.chan c).compose = some r ∧ target s c r = some n ∧
      serves s (headOf c) r.band = true ∧ (s.chan c).live = none ∧ (s.chan c).queue.length < 32) ∧
    (s.port.grant = none → 3 ≤ freeTags s.port → fetchRequest s c = some (r, n) →
      (∀ d q m, fetchRequest s d = some (q, m) → n < m ∨ (n = m ∧ c ≤ d)) →
      ∀ e b p, chanEntry s.layout c = some e → findBand s r.band = some b →
        b.sources.find? (fun y => y.plane == e.plane) = some p →
        exec .fetchGrant s = .next (startTransfer (some (c, r))
          (BitVec.ofNat 64 (p.base.toNat + sourceLine p r.line * p.stride.toNat + e.firstColumn / 4))
          ((e.firstColumn + e.nozzles - 1) / 4 - e.firstColumn / 4 + 1)
          { s with chans := s.chans.set c { s.chan c with live := some { ref := r, xfer := s.port.nextXfer } } }))

/-- FETCH_COMPLETE places the composed line, and FETCH_FAIL a data-fault line of level 0 throughout and nothing
lost, at the tail of the channel's queue, and the compose place moves to the line that follows; an orphan's result
is thrown away. No other channel's queue is touched, and the transfer is gone (R104, R111 to R113). -/
def Obligations.FetchOutcomePlacesLine : Prop :=
  ∀ (s : State) (x : Nat) (y : Transfer) (c : ChanId) (r : LineRef) (l : Layout) (e : HeadEntry),
    findTransfer s.port x = some y → y.fetch = some (c, r) → s.layout = some l → chanEntry s.layout c = some e →
    let wanted := (s.chan c).live = some { ref := r, xfer := x } ∧ (s.chan c).compose = some r ∧
      serves s (headOf c) r.band = true
    let places := fun (cmd : Instr) (line : ComposedLine) =>
      ∃ t, exec cmd s = .next t ∧ (t.chan c).queue = (s.chan c).queue ++ [line] ∧ (t.chan c).live = none ∧
        ((s.head (headOf c)).returnBand = none → (t.chan c).compose = lineAfter s c r) ∧
        (t.chan c).next = (s.chan c).next ∧ (t.chan c).slot = (s.chan c).slot ∧
        (∀ d, d ≠ c → t.chan d = s.chan d) ∧ t.port = dropTransfer x s.port ∧
        OnlyChanges [.chans, .heads, .port] s t
    (∀ bs, transferBytes s.port x = some bs → wanted →
      places (.fetchComplete x) (composedLine s c r l e bs)) ∧
    (transferFailed s.port x = true → wanted →
      places (.fetchFail x) { ref := r, pageLine := pageLineOf s r, levels := List.replicate (e.nozzles / 2) 0,
                              dataFault := true, lost := 0 }) ∧
    (∀ cmd, (cmd = .fetchComplete x ∧ transferBytes s.port x ≠ none) ∨
        (cmd = .fetchFail x ∧ transferFailed s.port x = true) →
      (s.chan c).live ≠ some { ref := r, xfer := x } →
      exec cmd s = .next { s with port := dropTransfer x s.port })

/-! ## The head links -/

/-- FRAME_BEGIN on an IDLE link: a resend or repeat begins ahead of the queue; else the oldest request that may be
served, a ship request carrying its channel's next composed line into the slot in transit, a configuration the
parameters due in ID order, entered in the shadow unconfirmed, and otherwise a QUERY. The link is SENDING for the
frame's bits over its lanes, a LINE frame having 32 bits and two a level, a CONFIG frame 16 and 24 an entry, a
QUERY frame 32; bit i goes on lane i mod the lanes in the tick i / lanes, and a lane not used, or while no frame is
sent, is low (R134, R153, R155, R160, R165, R169). That a resend or repeat begins in every engine state, HALTED
included, is log entry 18 (DEDUCED). -/
def Obligations.FrameBegins : Prop :=
  (∀ b : FrameBody, (frameBits b).length = frameLength b) ∧
  (∀ (s : State) (h : HeadId) (e : Nat) (f : Frame), (s.head h).link = .sending e → (s.head h).frame = some f →
    (∀ i, i < frameLength f.body → 0 < f.lanes → s.tick = f.begun + i / f.lanes →
      dataPin s h (i % f.lanes) = (frameBits f.body).getD i false) ∧
    ∀ lane, f.lanes ≤ lane → dataPin s h lane = false) ∧
  (∀ (s : State) (h : HeadId) (lane : Nat), (∀ e, (s.head h).link ≠ .sending e) → dataPin s h lane = false) ∧
  ∀ (s : State) (h : HeadId), (s.head h).link = .idle →
    let lanes := lanesOf s h
    let sends := fun (t : State) (f : Frame) =>
      (t.head h).link = .sending (s.tick + (frameLength f.body + lanes - 1) / lanes) ∧ (t.head h).frame = some f ∧
      (t.head h).again = none ∧ (∀ g, g ≠ h → t.head g = s.head g) ∧
      (t.head h).service = (s.head h).service ∧ (t.head h).config = (s.head h).config
    (∀ f, (s.head h).again = some f → ∃ t, exec (.frameBegin h) s = .next t ∧
      sends t { f with begun := s.tick, lanes := lanes } ∧ (t.head h).queue = (s.head h).queue ∧
      OnlyChanges [.heads] s t) ∧
    (∀ q, (s.head h).again = none → (s.head h).queue.find? (servable s) = some q →
      let fresh := fun (body : FrameBody) (forConfig : Bool) =>
        ({ body := body, lanes := lanes, begun := s.tick, withdrawn := false, again := false,
           forConfig := forConfig, stale := false } : Frame)
      (∀ row x, q.kind = shipKind (chanOf h row) → nextComposed (s.chan (chanOf h row)) = some x →
        ∃ t, exec (.frameBegin h) s = .next t ∧ sends t (fresh (.line row x.ref x.levels) false) ∧
          (t.head h).queue = (s.head h).queue.filter (fun y => y.kind ≠ q.kind) ∧
          (t.head h).shadow = (s.head h).shadow ∧
          t.chan (chanOf h row) = { s.chan (chanOf h row) with slot := .transit x.ref, shipRequest := false } ∧
          (∀ d, d ≠ chanOf h row → t.chan d = s.chan d) ∧ OnlyChanges [.heads, .chans] s t) ∧
      (q.kind = .config ∨ q.kind = .query →
        ∃ t, exec (.frameBegin h) s = .next t ∧
          (t.head h).queue = (s.head h).queue.filter (fun y => y.kind ≠ q.kind) ∧ OnlyChanges [.heads] s t ∧
          ((s.head h).config = none → sends t (fresh .query false) ∧ (t.head h).shadow = (s.head h).shadow) ∧
          ((s.head h).config ≠ none → dueParams s h = [] → sends t (fresh .query true) ∧
            (t.head h).shadow = (s.head h).shadow) ∧
          ∀ e, (s.head h).config ≠ none → entryOf s.layout h = some e → dueParams s h ≠ [] →
            sends t (fresh (.config ((dueParams s h).map fun i => (BitVec.ofNat 8 (i.val + 1), paramValue e i))) true) ∧
            ∀ i : Fin 5, (t.head h).shadow[i] =
              if i ∈ dueParams s h then { value := paramValue e i, confirmed := false } else (s.head h).shadow[i]))

/-- FRAME_END leaves the link waiting for the answer from the frame's end; LINK_RESET_END leaves it IDLE; nothing else
changes, and LINK_RESET is asserted exactly while the link is RESETTING (R161). That the clock stands at that tick or
later is the model's choice (log entry 1). -/
def Obligations.FrameAndResetEnd : Prop :=
  (∀ (s : State) (h : HeadId), resetPin s h = true ↔ ∃ e, (s.head h).link = .resetting e) ∧
  ∀ (s : State) (h : HeadId) (e : Nat),
    ((s.head h).link = .sending e → exec (.frameEnd h) s =
      .next { s with tick := max s.tick e, heads := s.heads.set h { s.head h with link := .answerWait e } }) ∧
    ((s.head h).link = .resetting e → exec (.linkResetEnd h) s =
      .next { s with tick := max s.tick e, heads := s.heads.set h { s.head h with link := .idle } })

/-- What a head sends makes its lane high where a bit is 1. An awaited acknowledgement begins at the first tick of the
window at which the lane goes high from low; until the lane has carried one whole, what is sent only adds its levels,
and one whose last bit comes before the 200th tick keeps the frame from timing out. The acknowledgement to a LINE frame
ends it: READY makes a line in transit the shipped line, and a channel DEFERRED on it fires it at once
if its period has ended; a first CHECK_ERROR sends the same frame again and keeps the line in transit, but no resend
begins in HALTED and ABORTING; for a withdrawn frame, and one that a layout overtook, neither does anything more (R79,
R136, R137, R157, R162, R163, R197). That the levels come eight at a time, and the clock stands at the last bit or
later, is log entry 19 (the model's choice), and the frame waiting in `again` is log entry 18 (DEDUCED). -/
def Obligations.LineFrameAnswered : Prop :=
  (∀ (lane : List LaneReturn) (t : Nat),
    laneHigh lane t = true ↔ ∃ x ∈ lane, ∃ i < 8, t = x.bit0 + i ∧ x.byte.getLsbD i = true) ∧
  (∀ (s : State) (h : HeadId) (ack : LaneReturn),
    (∀ since t b, (s.head h).link = .answerWait since → ¬Answers s h since ack t b) →
    exec (.ackReceived h ack) s =
      .next { s with heads := s.heads.set h { s.head h with lane := (s.head h).lane ++ [ack] } }) ∧
  (∀ (s : State) (h : HeadId) (since t : Nat), (s.head h).link = .answerWait since →
    BeginsAck (s.head h).lane since t → t + 7 < since + 200 → exec (.ackTimeout h) s = .next s) ∧
  ∀ (s : State) (h : HeadId) (ack : LaneReturn) (since : Nat) (f : Frame) (row : Row) (r : LineRef)
    (levels : List (BitVec 2)) (begun : Nat) (byte : Byte),
    (s.head h).link = .answerWait since → (s.head h).frame = some f → f.body = .line row r levels →
    Answers s h since ack begun byte →
    let c := chanOf h row
    let now := max s.tick (begun + 7)
    let lane := (s.head h).lane ++ [ack]
    let taken := answered s h now lane
    let shipped := { taken with chans := s.chans.set c { s.chan c with slot := .shipped r } }
    let status := byte.extractLsb' 1 2
    (f.stale = true ∨ (f.withdrawn = true ∧ (status = 0 ∨ status = 1)) →
      exec (.ackReceived h ack) s = .next taken) ∧
    (f.stale = false → f.withdrawn = false → status = 0 → (s.chan c).slot = .transit r →
      (chanState s c ≠ .deferred → exec (.ackReceived h ack) s = .next shipped) ∧
      ∀ x xs, chanState s c = .deferred → (s.chan c).next = some r → (s.chan c).queue = x :: xs → x.ref = r →
        let ended := ∀ e, (s.chan c).lastFire = some e → e + periodOf s c ≤ now
        (¬ended → exec (.ackReceived h ack) s = .next shipped) ∧
        (ended → exec (.ackReceived h ack) s = .next (settle c (fire c x shipped)) ∧
          ((∀ n, (lineAfter s c r).bind (target s c) = some n → reached s.posn.pos n = false) →
            ∃ t, exec (.ackReceived h ack) s = .next t ∧ t.tick = now ∧ t.heads = taken.heads ∧
              (t.chan c).pulseEnd = some (now + 20) ∧ (t.chan c).lastFire = some now ∧
              (t.chan c).next = lineAfter s c r ∧ (t.chan c).deferred = false ∧ (t.chan c).queue = xs ∧
              (t.chan c).slot = .empty ∧ (∀ d, d ≠ c → t.chan d = s.chan d) ∧
              t.win = { s.win with bands := s.win.bands.map fun b =>
                if b.id = r.band then reportTo (.fired x.dataFault x.lost) b else b }))) ∧
    (f.stale = false → f.withdrawn = false → status = 1 → f.again = false →
      (frozen s = true → exec (.ackReceived h ack) s = .next taken) ∧
      (frozen s = false → exec (.ackReceived h ack) s = .next { taken with
        heads := s.heads.set h
          { s.head h with link := .idle, frame := none, again := some { f with again := true }, lane := lane } }))

/-- A LINE frame that times out, its lane holding no acknowledgement that ends before the 200th tick, is not ready or is
too hot, withdrawn or not, and one not withdrawn that fails its check twice, parks its head, with a link cause for a
timeout or a failed check. A head already PARKED does not park again, and a frame that a layout overtook parks none
(R79, R144, R157, R162 to R164). The tick of the outcome is log entries 1 and 19 (the model's choice). -/
def Obligations.FailedLineFrameParksHead : Prop :=
  ∀ (s : State) (h : HeadId) (c : Instr) (now since : Nat) (f : Frame) (row : Row) (r : LineRef)
    (levels : List (BitVec 2)) (lane : List LaneReturn) (linkCause : Bool),
    (s.head h).link = .answerWait since → (s.head h).frame = some f → f.body = .line row r levels →
    (c = .ackTimeout h ∧ (∀ b, BeginsAck (s.head h).lane since b → since + 200 ≤ b + 7) ∧
        now = max s.tick (since + 200) ∧ lane = (s.head h).lane ∧ linkCause = true) ∨
      (∃ (ack : LaneReturn) (begun : Nat) (byte : Byte), c = .ackReceived h ack ∧ Answers s h since ack begun byte ∧
        now = max s.tick (begun + 7) ∧ lane = (s.head h).lane ++ [ack] ∧
        ((byte.extractLsb' 1 2 = 1 ∧ f.withdrawn = false ∧ f.again = true ∧ linkCause = true) ∨
          ((byte.extractLsb' 1 2 = 2 ∨ byte.extractLsb' 1 2 = 3) ∧ linkCause = false))) →
    (f.stale = true ∨ (s.head h).service = .parked → exec c s = .next (answered s h now lane)) ∧
    (f.stale = false → (s.head h).service ≠ .parked →
      ∃ t, exec c s = .next t ∧ t.tick = now ∧ ParkEffect s t h linkCause ∧
        ∀ i : Fin 5, (t.head h).shadow[i] = (s.head h).shadow[i])

/-- The answer to a configuration's frame, a CONFIG frame of entries `es` or a QUERY frame, of none: the first k
entries become confirmed; READY for all of them puts the head IN_SERVICE, its return band kept while that band is open;
READY for fewer, or CHECK_ERROR, repeats the others once, a QUERY when none remains; and a second such answer, a
timeout, NOT_READY or OVERTEMP fails the configuration and parks the head (R164, R167 to R171). The ticks at which an
answer is taken are log entries 1 and 19 (the model's choice), and the repeat waiting in `again` is log entry 18
(DEDUCED). -/
def Obligations.ConfigurationAnswered : Prop :=
  ∀ (s : State) (h : HeadId) (since : Nat) (f : Frame) (es : List (Byte × Byte)) (used : Bool),
    (s.head h).link = .answerWait since → (s.head h).frame = some f → f.stale = false →
    f.body = .config es ∨ (f.body = .query ∧ f.forConfig = true ∧ es = []) →
    (s.head h).config = some used →
    let confirmed := fun (t : State) (k : Nat) => ∀ i : Fin 5, (t.head h).shadow[i] =
      if ∃ e ∈ es.take k, e.1 = BitVec.ofNat 8 (i.val + 1)
      then { (s.head h).shadow[i] with confirmed := true } else (s.head h).shadow[i]
    let fails := fun (c : Instr) (now k : Nat) (linkCause : Bool) =>
      (s.head h).service ≠ .parked →
        ∃ t, exec c s = .next t ∧ t.tick = now ∧ confirmed t k ∧ ParkEffect s t h linkCause
    ((∀ b, BeginsAck (s.head h).lane since b → since + 200 ≤ b + 7) →
      fails (.ackTimeout h) (max s.tick (since + 200)) 0 true) ∧
    ∀ (ack : LaneReturn) (begun : Nat) (byte : Byte), Answers s h since ack begun byte →
      let now := max s.tick (begun + 7)
      let k := min (byte.extractLsb' 3 3).toNat es.length
      let status := byte.extractLsb' 1 2
      let short := status = 1 ∨ (status = 0 ∧ k < es.length)
      (status = 0 → k = es.length →
        ∃ t, exec (.ackReceived h ack) s = .next t ∧ t.tick = now ∧ confirmed t k ∧
          (t.head h).service = .inService ∧ (t.head h).config = none ∧ (t.head h).link = .idle ∧
          (t.head h).frame = none ∧ (t.head h).queue = (s.head h).queue ∧
          (∀ b, (t.head h).returnBand = some b ↔ (s.head h).returnBand = some b ∧ (findBand s b).isSome = true) ∧
          (∀ g, g ≠ h → t.head g = s.head g) ∧ OnlyChanges [.tick, .heads] s t) ∧
      (short → used = false →
        ∃ t, exec (.ackReceived h ack) s = .next t ∧ t.tick = now ∧ confirmed t k ∧
          (t.head h).service = (s.head h).service ∧ (t.head h).config = some true ∧ (t.head h).link = .idle ∧
          (t.head h).frame = none ∧
          (∃ g, (t.head h).again = some g ∧ g.body = (if es.drop k = [] then .query else .config (es.drop k))) ∧
          (∀ g, g ≠ h → t.head g = s.head g) ∧ OnlyChanges [.tick, .heads] s t) ∧
      (short → used = true → fails (.ackReceived h ack) now k true) ∧
      (status = 2 ∨ status = 3 → fails (.ackReceived h ack) now k false)

/-- QUERY_TIMER_EXPIRY of a parked head runs its timer on for 100,000 ticks and queues a QUERY unless one is queued
or in flight; the answer to that QUERY sets the head's ready note exactly when it is READY, and a missing answer
clears it (R157, R165). The clock's moves are log entry 1, and the tick at which an answer is taken log entry 19 (the
model's choice). -/
def Obligations.ParkedHeadQueried : Prop :=
  ∀ (s : State) (h : HeadId), (s.head h).service = .parked →
    (∀ e, (s.head h).timer = some e →
      let pending := (∃ q ∈ (s.head h).queue, q.kind = .query) ∨ ∃ f, (s.head h).frame = some f ∧ f.body = .query
      let d := { s.head h with timer := some (e + 100000) }
      (pending → exec (.queryTimerExpiry h) s = .next { s with tick := max s.tick e, heads := s.heads.set h d }) ∧
      (¬pending → exec (.queryTimerExpiry h) s = .next { s with
        tick := max s.tick e
        heads := (s.heads.set h
          { d with queue := enqueue { kind := .query, joined := max s.tick e } (s.head h).queue }) })) ∧
    ∀ (since : Nat) (f : Frame), (s.head h).link = .answerWait since → (s.head h).frame = some f → f.body = .query →
      f.stale = false → f.forConfig = false →
      let noted := fun (now : Nat) (lane : List LaneReturn) (ready : Bool) =>
        { s with
          tick := now
          heads := s.heads.set h { s.head h with link := .idle, frame := none, ready := ready, lane := lane } }
      (∀ ack begun byte, Answers s h since ack begun byte → exec (.ackReceived h ack) s =
        .next (noted (max s.tick (begun + 7)) ((s.head h).lane ++ [ack]) (byte.extractLsb' 1 2 = 0))) ∧
      ((∀ b, BeginsAck (s.head h).lane since b → since + 200 ≤ b + 7) →
        exec (.ackTimeout h) s = .next (noted (max s.tick (since + 200)) (s.head h).lane false))

end
end

