-- ==== Sys2Proof/Laws/State.lean ====
section
/-! SUPPORT. One lemma per part of the state and setter, and the accessors of channels, heads and nozzle maps,
so that no later proof unfolds a record update. -/

namespace Sys2Proof.Machine

/-! withPending -/

@[simp] theorem State.withPending_pending (s : State) (x : List Instr) : (s.withPending x).pending = x := rfl
@[simp] theorem State.withPending_tick (s : State) (x : List Instr) : (s.withPending x).tick = s.tick := rfl
@[simp] theorem State.withPending_posn (s : State) (x : List Instr) : (s.withPending x).posn = s.posn := rfl
@[simp] theorem State.withPending_reader (s : State) (x : List Instr) : (s.withPending x).reader = s.reader := rfl
@[simp] theorem State.withPending_win (s : State) (x : List Instr) : (s.withPending x).win = s.win := rfl
@[simp] theorem State.withPending_layout (s : State) (x : List Instr) : (s.withPending x).layout = s.layout := rfl
@[simp] theorem State.withPending_maps (s : State) (x : List Instr) : (s.withPending x).maps = s.maps := rfl
@[simp] theorem State.withPending_chans (s : State) (x : List Instr) : (s.withPending x).chans = s.chans := rfl
@[simp] theorem State.withPending_heads (s : State) (x : List Instr) : (s.withPending x).heads = s.heads := rfl
@[simp] theorem State.withPending_port (s : State) (x : List Instr) : (s.withPending x).port = s.port := rfl
@[simp] theorem State.withPending_ctl (s : State) (x : List Instr) : (s.withPending x).ctl = s.ctl := rfl

/-! withTick -/

@[simp] theorem State.withTick_pending (s : State) (x : Nat) : (s.withTick x).pending = s.pending := rfl
@[simp] theorem State.withTick_tick (s : State) (x : Nat) : (s.withTick x).tick = x := rfl
@[simp] theorem State.withTick_posn (s : State) (x : Nat) : (s.withTick x).posn = s.posn := rfl
@[simp] theorem State.withTick_reader (s : State) (x : Nat) : (s.withTick x).reader = s.reader := rfl
@[simp] theorem State.withTick_win (s : State) (x : Nat) : (s.withTick x).win = s.win := rfl
@[simp] theorem State.withTick_layout (s : State) (x : Nat) : (s.withTick x).layout = s.layout := rfl
@[simp] theorem State.withTick_maps (s : State) (x : Nat) : (s.withTick x).maps = s.maps := rfl
@[simp] theorem State.withTick_chans (s : State) (x : Nat) : (s.withTick x).chans = s.chans := rfl
@[simp] theorem State.withTick_heads (s : State) (x : Nat) : (s.withTick x).heads = s.heads := rfl
@[simp] theorem State.withTick_port (s : State) (x : Nat) : (s.withTick x).port = s.port := rfl
@[simp] theorem State.withTick_ctl (s : State) (x : Nat) : (s.withTick x).ctl = s.ctl := rfl

/-! withPosn -/

@[simp] theorem State.withPosn_pending (s : State) (x : PositionUnit) : (s.withPosn x).pending = s.pending := rfl
@[simp] theorem State.withPosn_tick (s : State) (x : PositionUnit) : (s.withPosn x).tick = s.tick := rfl
@[simp] theorem State.withPosn_posn (s : State) (x : PositionUnit) : (s.withPosn x).posn = x := rfl
@[simp] theorem State.withPosn_reader (s : State) (x : PositionUnit) : (s.withPosn x).reader = s.reader := rfl
@[simp] theorem State.withPosn_win (s : State) (x : PositionUnit) : (s.withPosn x).win = s.win := rfl
@[simp] theorem State.withPosn_layout (s : State) (x : PositionUnit) : (s.withPosn x).layout = s.layout := rfl
@[simp] theorem State.withPosn_maps (s : State) (x : PositionUnit) : (s.withPosn x).maps = s.maps := rfl
@[simp] theorem State.withPosn_chans (s : State) (x : PositionUnit) : (s.withPosn x).chans = s.chans := rfl
@[simp] theorem State.withPosn_heads (s : State) (x : PositionUnit) : (s.withPosn x).heads = s.heads := rfl
@[simp] theorem State.withPosn_port (s : State) (x : PositionUnit) : (s.withPosn x).port = s.port := rfl
@[simp] theorem State.withPosn_ctl (s : State) (x : PositionUnit) : (s.withPosn x).ctl = s.ctl := rfl

/-! withReader -/

@[simp] theorem State.withReader_pending (s : State) (x : Reader) : (s.withReader x).pending = s.pending := rfl
@[simp] theorem State.withReader_tick (s : State) (x : Reader) : (s.withReader x).tick = s.tick := rfl
@[simp] theorem State.withReader_posn (s : State) (x : Reader) : (s.withReader x).posn = s.posn := rfl
@[simp] theorem State.withReader_reader (s : State) (x : Reader) : (s.withReader x).reader = x := rfl
@[simp] theorem State.withReader_win (s : State) (x : Reader) : (s.withReader x).win = s.win := rfl
@[simp] theorem State.withReader_layout (s : State) (x : Reader) : (s.withReader x).layout = s.layout := rfl
@[simp] theorem State.withReader_maps (s : State) (x : Reader) : (s.withReader x).maps = s.maps := rfl
@[simp] theorem State.withReader_chans (s : State) (x : Reader) : (s.withReader x).chans = s.chans := rfl
@[simp] theorem State.withReader_heads (s : State) (x : Reader) : (s.withReader x).heads = s.heads := rfl
@[simp] theorem State.withReader_port (s : State) (x : Reader) : (s.withReader x).port = s.port := rfl
@[simp] theorem State.withReader_ctl (s : State) (x : Reader) : (s.withReader x).ctl = s.ctl := rfl

/-! withWin -/

@[simp] theorem State.withWin_pending (s : State) (x : Window) : (s.withWin x).pending = s.pending := rfl
@[simp] theorem State.withWin_tick (s : State) (x : Window) : (s.withWin x).tick = s.tick := rfl
@[simp] theorem State.withWin_posn (s : State) (x : Window) : (s.withWin x).posn = s.posn := rfl
@[simp] theorem State.withWin_reader (s : State) (x : Window) : (s.withWin x).reader = s.reader := rfl
@[simp] theorem State.withWin_win (s : State) (x : Window) : (s.withWin x).win = x := rfl
@[simp] theorem State.withWin_layout (s : State) (x : Window) : (s.withWin x).layout = s.layout := rfl
@[simp] theorem State.withWin_maps (s : State) (x : Window) : (s.withWin x).maps = s.maps := rfl
@[simp] theorem State.withWin_chans (s : State) (x : Window) : (s.withWin x).chans = s.chans := rfl
@[simp] theorem State.withWin_heads (s : State) (x : Window) : (s.withWin x).heads = s.heads := rfl
@[simp] theorem State.withWin_port (s : State) (x : Window) : (s.withWin x).port = s.port := rfl
@[simp] theorem State.withWin_ctl (s : State) (x : Window) : (s.withWin x).ctl = s.ctl := rfl

/-! withLayout -/

@[simp] theorem State.withLayout_pending (s : State) (x : Option Layout) : (s.withLayout x).pending = s.pending := rfl
@[simp] theorem State.withLayout_tick (s : State) (x : Option Layout) : (s.withLayout x).tick = s.tick := rfl
@[simp] theorem State.withLayout_posn (s : State) (x : Option Layout) : (s.withLayout x).posn = s.posn := rfl
@[simp] theorem State.withLayout_reader (s : State) (x : Option Layout) : (s.withLayout x).reader = s.reader := rfl
@[simp] theorem State.withLayout_win (s : State) (x : Option Layout) : (s.withLayout x).win = s.win := rfl
@[simp] theorem State.withLayout_layout (s : State) (x : Option Layout) : (s.withLayout x).layout = x := rfl
@[simp] theorem State.withLayout_maps (s : State) (x : Option Layout) : (s.withLayout x).maps = s.maps := rfl
@[simp] theorem State.withLayout_chans (s : State) (x : Option Layout) : (s.withLayout x).chans = s.chans := rfl
@[simp] theorem State.withLayout_heads (s : State) (x : Option Layout) : (s.withLayout x).heads = s.heads := rfl
@[simp] theorem State.withLayout_port (s : State) (x : Option Layout) : (s.withLayout x).port = s.port := rfl
@[simp] theorem State.withLayout_ctl (s : State) (x : Option Layout) : (s.withLayout x).ctl = s.ctl := rfl

/-! withMaps -/

@[simp] theorem State.withMaps_pending (s : State) (x : Vector NozzleMap 16) : (s.withMaps x).pending = s.pending := rfl
@[simp] theorem State.withMaps_tick (s : State) (x : Vector NozzleMap 16) : (s.withMaps x).tick = s.tick := rfl
@[simp] theorem State.withMaps_posn (s : State) (x : Vector NozzleMap 16) : (s.withMaps x).posn = s.posn := rfl
@[simp] theorem State.withMaps_reader (s : State) (x : Vector NozzleMap 16) : (s.withMaps x).reader = s.reader := rfl
@[simp] theorem State.withMaps_win (s : State) (x : Vector NozzleMap 16) : (s.withMaps x).win = s.win := rfl
@[simp] theorem State.withMaps_layout (s : State) (x : Vector NozzleMap 16) : (s.withMaps x).layout = s.layout := rfl
@[simp] theorem State.withMaps_maps (s : State) (x : Vector NozzleMap 16) : (s.withMaps x).maps = x := rfl
@[simp] theorem State.withMaps_chans (s : State) (x : Vector NozzleMap 16) : (s.withMaps x).chans = s.chans := rfl
@[simp] theorem State.withMaps_heads (s : State) (x : Vector NozzleMap 16) : (s.withMaps x).heads = s.heads := rfl
@[simp] theorem State.withMaps_port (s : State) (x : Vector NozzleMap 16) : (s.withMaps x).port = s.port := rfl
@[simp] theorem State.withMaps_ctl (s : State) (x : Vector NozzleMap 16) : (s.withMaps x).ctl = s.ctl := rfl

/-! withChans -/

@[simp] theorem State.withChans_pending (s : State) (x : Vector Channel 32) : (s.withChans x).pending = s.pending := rfl
@[simp] theorem State.withChans_tick (s : State) (x : Vector Channel 32) : (s.withChans x).tick = s.tick := rfl
@[simp] theorem State.withChans_posn (s : State) (x : Vector Channel 32) : (s.withChans x).posn = s.posn := rfl
@[simp] theorem State.withChans_reader (s : State) (x : Vector Channel 32) : (s.withChans x).reader = s.reader := rfl
@[simp] theorem State.withChans_win (s : State) (x : Vector Channel 32) : (s.withChans x).win = s.win := rfl
@[simp] theorem State.withChans_layout (s : State) (x : Vector Channel 32) : (s.withChans x).layout = s.layout := rfl
@[simp] theorem State.withChans_maps (s : State) (x : Vector Channel 32) : (s.withChans x).maps = s.maps := rfl
@[simp] theorem State.withChans_chans (s : State) (x : Vector Channel 32) : (s.withChans x).chans = x := rfl
@[simp] theorem State.withChans_heads (s : State) (x : Vector Channel 32) : (s.withChans x).heads = s.heads := rfl
@[simp] theorem State.withChans_port (s : State) (x : Vector Channel 32) : (s.withChans x).port = s.port := rfl
@[simp] theorem State.withChans_ctl (s : State) (x : Vector Channel 32) : (s.withChans x).ctl = s.ctl := rfl

/-! withHeads -/

@[simp] theorem State.withHeads_pending (s : State) (x : Vector HeadLink 16) : (s.withHeads x).pending = s.pending := rfl
@[simp] theorem State.withHeads_tick (s : State) (x : Vector HeadLink 16) : (s.withHeads x).tick = s.tick := rfl
@[simp] theorem State.withHeads_posn (s : State) (x : Vector HeadLink 16) : (s.withHeads x).posn = s.posn := rfl
@[simp] theorem State.withHeads_reader (s : State) (x : Vector HeadLink 16) : (s.withHeads x).reader = s.reader := rfl
@[simp] theorem State.withHeads_win (s : State) (x : Vector HeadLink 16) : (s.withHeads x).win = s.win := rfl
@[simp] theorem State.withHeads_layout (s : State) (x : Vector HeadLink 16) : (s.withHeads x).layout = s.layout := rfl
@[simp] theorem State.withHeads_maps (s : State) (x : Vector HeadLink 16) : (s.withHeads x).maps = s.maps := rfl
@[simp] theorem State.withHeads_chans (s : State) (x : Vector HeadLink 16) : (s.withHeads x).chans = s.chans := rfl
@[simp] theorem State.withHeads_heads (s : State) (x : Vector HeadLink 16) : (s.withHeads x).heads = x := rfl
@[simp] theorem State.withHeads_port (s : State) (x : Vector HeadLink 16) : (s.withHeads x).port = s.port := rfl
@[simp] theorem State.withHeads_ctl (s : State) (x : Vector HeadLink 16) : (s.withHeads x).ctl = s.ctl := rfl

/-! withPort -/

@[simp] theorem State.withPort_pending (s : State) (x : MemoryPort) : (s.withPort x).pending = s.pending := rfl
@[simp] theorem State.withPort_tick (s : State) (x : MemoryPort) : (s.withPort x).tick = s.tick := rfl
@[simp] theorem State.withPort_posn (s : State) (x : MemoryPort) : (s.withPort x).posn = s.posn := rfl
@[simp] theorem State.withPort_reader (s : State) (x : MemoryPort) : (s.withPort x).reader = s.reader := rfl
@[simp] theorem State.withPort_win (s : State) (x : MemoryPort) : (s.withPort x).win = s.win := rfl
@[simp] theorem State.withPort_layout (s : State) (x : MemoryPort) : (s.withPort x).layout = s.layout := rfl
@[simp] theorem State.withPort_maps (s : State) (x : MemoryPort) : (s.withPort x).maps = s.maps := rfl
@[simp] theorem State.withPort_chans (s : State) (x : MemoryPort) : (s.withPort x).chans = s.chans := rfl
@[simp] theorem State.withPort_heads (s : State) (x : MemoryPort) : (s.withPort x).heads = s.heads := rfl
@[simp] theorem State.withPort_port (s : State) (x : MemoryPort) : (s.withPort x).port = x := rfl
@[simp] theorem State.withPort_ctl (s : State) (x : MemoryPort) : (s.withPort x).ctl = s.ctl := rfl

/-! withCtl -/

@[simp] theorem State.withCtl_pending (s : State) (x : EngineControl) : (s.withCtl x).pending = s.pending := rfl
@[simp] theorem State.withCtl_tick (s : State) (x : EngineControl) : (s.withCtl x).tick = s.tick := rfl
@[simp] theorem State.withCtl_posn (s : State) (x : EngineControl) : (s.withCtl x).posn = s.posn := rfl
@[simp] theorem State.withCtl_reader (s : State) (x : EngineControl) : (s.withCtl x).reader = s.reader := rfl
@[simp] theorem State.withCtl_win (s : State) (x : EngineControl) : (s.withCtl x).win = s.win := rfl
@[simp] theorem State.withCtl_layout (s : State) (x : EngineControl) : (s.withCtl x).layout = s.layout := rfl
@[simp] theorem State.withCtl_maps (s : State) (x : EngineControl) : (s.withCtl x).maps = s.maps := rfl
@[simp] theorem State.withCtl_chans (s : State) (x : EngineControl) : (s.withCtl x).chans = s.chans := rfl
@[simp] theorem State.withCtl_heads (s : State) (x : EngineControl) : (s.withCtl x).heads = s.heads := rfl
@[simp] theorem State.withCtl_port (s : State) (x : EngineControl) : (s.withCtl x).port = s.port := rfl
@[simp] theorem State.withCtl_ctl (s : State) (x : EngineControl) : (s.withCtl x).ctl = x := rfl

/-! Channels, heads and nozzle maps -/

@[simp] theorem State.setChan_pending (s : State) (c : ChanId) (x : Channel) : (s.setChan c x).pending = s.pending := rfl
@[simp] theorem State.setChan_tick (s : State) (c : ChanId) (x : Channel) : (s.setChan c x).tick = s.tick := rfl
@[simp] theorem State.setChan_posn (s : State) (c : ChanId) (x : Channel) : (s.setChan c x).posn = s.posn := rfl
@[simp] theorem State.setChan_reader (s : State) (c : ChanId) (x : Channel) : (s.setChan c x).reader = s.reader := rfl
@[simp] theorem State.setChan_win (s : State) (c : ChanId) (x : Channel) : (s.setChan c x).win = s.win := rfl
@[simp] theorem State.setChan_layout (s : State) (c : ChanId) (x : Channel) : (s.setChan c x).layout = s.layout := rfl
@[simp] theorem State.setChan_maps (s : State) (c : ChanId) (x : Channel) : (s.setChan c x).maps = s.maps := rfl
@[simp] theorem State.setChan_heads (s : State) (c : ChanId) (x : Channel) : (s.setChan c x).heads = s.heads := rfl
@[simp] theorem State.setChan_port (s : State) (c : ChanId) (x : Channel) : (s.setChan c x).port = s.port := rfl
@[simp] theorem State.setChan_ctl (s : State) (c : ChanId) (x : Channel) : (s.setChan c x).ctl = s.ctl := rfl
@[simp] theorem State.setChan_head (s : State) (c : ChanId) (x : Channel) (d : HeadId) : (s.setChan c x).head d = s.head d := rfl
@[simp] theorem State.setChan_map (s : State) (c : ChanId) (x : Channel) (d : HeadId) : (s.setChan c x).map d = s.map d := rfl
@[simp] theorem State.setChan_chan_self (s : State) (c : ChanId) (x : Channel) : (s.setChan c x).chan c = x := by
  simp [State.chan, State.setChan]

theorem State.setChan_chan_ne (s : State) (c d : ChanId) (x : Channel) (h : d ≠ c) : (s.setChan c x).chan d = s.chan d := by
  have hv : c.val ≠ d.val := fun e => h (Fin.ext e.symm)
  simp only [State.chan, State.setChan, State.withChans, Fin.getElem_fin]
  exact Vector.getElem_set_ne _ _ hv

theorem State.setChan_chan (s : State) (c d : ChanId) (x : Channel) :
    (s.setChan c x).chan d = if d = c then x else s.chan d := by
  split
  · next h => subst h; simp
  · next h => exact State.setChan_chan_ne s c d x h

@[simp] theorem State.withPending_chan (s : State) (x : List Instr) (c : ChanId) : (s.withPending x).chan c = s.chan c := rfl
@[simp] theorem State.withTick_chan (s : State) (x : Nat) (c : ChanId) : (s.withTick x).chan c = s.chan c := rfl
@[simp] theorem State.withPosn_chan (s : State) (x : PositionUnit) (c : ChanId) : (s.withPosn x).chan c = s.chan c := rfl
@[simp] theorem State.withReader_chan (s : State) (x : Reader) (c : ChanId) : (s.withReader x).chan c = s.chan c := rfl
@[simp] theorem State.withWin_chan (s : State) (x : Window) (c : ChanId) : (s.withWin x).chan c = s.chan c := rfl
@[simp] theorem State.withLayout_chan (s : State) (x : Option Layout) (c : ChanId) : (s.withLayout x).chan c = s.chan c := rfl
@[simp] theorem State.withMaps_chan (s : State) (x : Vector NozzleMap 16) (c : ChanId) : (s.withMaps x).chan c = s.chan c := rfl
@[simp] theorem State.withHeads_chan (s : State) (x : Vector HeadLink 16) (c : ChanId) : (s.withHeads x).chan c = s.chan c := rfl
@[simp] theorem State.withPort_chan (s : State) (x : MemoryPort) (c : ChanId) : (s.withPort x).chan c = s.chan c := rfl
@[simp] theorem State.withCtl_chan (s : State) (x : EngineControl) (c : ChanId) : (s.withCtl x).chan c = s.chan c := rfl
@[simp] theorem State.withChans_chan (s : State) (x : Vector Channel 32) (c : ChanId) : (s.withChans x).chan c = x[c] := rfl

@[simp] theorem State.setHead_pending (s : State) (c : HeadId) (x : HeadLink) : (s.setHead c x).pending = s.pending := rfl
@[simp] theorem State.setHead_tick (s : State) (c : HeadId) (x : HeadLink) : (s.setHead c x).tick = s.tick := rfl
@[simp] theorem State.setHead_posn (s : State) (c : HeadId) (x : HeadLink) : (s.setHead c x).posn = s.posn := rfl
@[simp] theorem State.setHead_reader (s : State) (c : HeadId) (x : HeadLink) : (s.setHead c x).reader = s.reader := rfl
@[simp] theorem State.setHead_win (s : State) (c : HeadId) (x : HeadLink) : (s.setHead c x).win = s.win := rfl
@[simp] theorem State.setHead_layout (s : State) (c : HeadId) (x : HeadLink) : (s.setHead c x).layout = s.layout := rfl
@[simp] theorem State.setHead_maps (s : State) (c : HeadId) (x : HeadLink) : (s.setHead c x).maps = s.maps := rfl
@[simp] theorem State.setHead_chans (s : State) (c : HeadId) (x : HeadLink) : (s.setHead c x).chans = s.chans := rfl
@[simp] theorem State.setHead_port (s : State) (c : HeadId) (x : HeadLink) : (s.setHead c x).port = s.port := rfl
@[simp] theorem State.setHead_ctl (s : State) (c : HeadId) (x : HeadLink) : (s.setHead c x).ctl = s.ctl := rfl
@[simp] theorem State.setHead_chan (s : State) (c : HeadId) (x : HeadLink) (d : ChanId) : (s.setHead c x).chan d = s.chan d := rfl
@[simp] theorem State.setHead_map (s : State) (c : HeadId) (x : HeadLink) (d : HeadId) : (s.setHead c x).map d = s.map d := rfl
@[simp] theorem State.setHead_head_self (s : State) (c : HeadId) (x : HeadLink) : (s.setHead c x).head c = x := by
  simp [State.head, State.setHead]

theorem State.setHead_head_ne (s : State) (c d : HeadId) (x : HeadLink) (h : d ≠ c) : (s.setHead c x).head d = s.head d := by
  have hv : c.val ≠ d.val := fun e => h (Fin.ext e.symm)
  simp only [State.head, State.setHead, State.withHeads, Fin.getElem_fin]
  exact Vector.getElem_set_ne _ _ hv

theorem State.setHead_head (s : State) (c d : HeadId) (x : HeadLink) :
    (s.setHead c x).head d = if d = c then x else s.head d := by
  split
  · next h => subst h; simp
  · next h => exact State.setHead_head_ne s c d x h

@[simp] theorem State.withPending_head (s : State) (x : List Instr) (c : HeadId) : (s.withPending x).head c = s.head c := rfl
@[simp] theorem State.withTick_head (s : State) (x : Nat) (c : HeadId) : (s.withTick x).head c = s.head c := rfl
@[simp] theorem State.withPosn_head (s : State) (x : PositionUnit) (c : HeadId) : (s.withPosn x).head c = s.head c := rfl
@[simp] theorem State.withReader_head (s : State) (x : Reader) (c : HeadId) : (s.withReader x).head c = s.head c := rfl
@[simp] theorem State.withWin_head (s : State) (x : Window) (c : HeadId) : (s.withWin x).head c = s.head c := rfl
@[simp] theorem State.withLayout_head (s : State) (x : Option Layout) (c : HeadId) : (s.withLayout x).head c = s.head c := rfl
@[simp] theorem State.withMaps_head (s : State) (x : Vector NozzleMap 16) (c : HeadId) : (s.withMaps x).head c = s.head c := rfl
@[simp] theorem State.withChans_head (s : State) (x : Vector Channel 32) (c : HeadId) : (s.withChans x).head c = s.head c := rfl
@[simp] theorem State.withPort_head (s : State) (x : MemoryPort) (c : HeadId) : (s.withPort x).head c = s.head c := rfl
@[simp] theorem State.withCtl_head (s : State) (x : EngineControl) (c : HeadId) : (s.withCtl x).head c = s.head c := rfl
@[simp] theorem State.withHeads_head (s : State) (x : Vector HeadLink 16) (c : HeadId) : (s.withHeads x).head c = x[c] := rfl

@[simp] theorem State.setMap_pending (s : State) (c : HeadId) (x : NozzleMap) : (s.setMap c x).pending = s.pending := rfl
@[simp] theorem State.setMap_tick (s : State) (c : HeadId) (x : NozzleMap) : (s.setMap c x).tick = s.tick := rfl
@[simp] theorem State.setMap_posn (s : State) (c : HeadId) (x : NozzleMap) : (s.setMap c x).posn = s.posn := rfl
@[simp] theorem State.setMap_reader (s : State) (c : HeadId) (x : NozzleMap) : (s.setMap c x).reader = s.reader := rfl
@[simp] theorem State.setMap_win (s : State) (c : HeadId) (x : NozzleMap) : (s.setMap c x).win = s.win := rfl
@[simp] theorem State.setMap_layout (s : State) (c : HeadId) (x : NozzleMap) : (s.setMap c x).layout = s.layout := rfl
@[simp] theorem State.setMap_chans (s : State) (c : HeadId) (x : NozzleMap) : (s.setMap c x).chans = s.chans := rfl
@[simp] theorem State.setMap_heads (s : State) (c : HeadId) (x : NozzleMap) : (s.setMap c x).heads = s.heads := rfl
@[simp] theorem State.setMap_port (s : State) (c : HeadId) (x : NozzleMap) : (s.setMap c x).port = s.port := rfl
@[simp] theorem State.setMap_ctl (s : State) (c : HeadId) (x : NozzleMap) : (s.setMap c x).ctl = s.ctl := rfl
@[simp] theorem State.setMap_chan (s : State) (c : HeadId) (x : NozzleMap) (d : ChanId) : (s.setMap c x).chan d = s.chan d := rfl
@[simp] theorem State.setMap_head (s : State) (c : HeadId) (x : NozzleMap) (d : HeadId) : (s.setMap c x).head d = s.head d := rfl
@[simp] theorem State.setMap_map_self (s : State) (c : HeadId) (x : NozzleMap) : (s.setMap c x).map c = x := by
  simp [State.map, State.setMap]

theorem State.setMap_map_ne (s : State) (c d : HeadId) (x : NozzleMap) (h : d ≠ c) : (s.setMap c x).map d = s.map d := by
  have hv : c.val ≠ d.val := fun e => h (Fin.ext e.symm)
  simp only [State.map, State.setMap, State.withMaps, Fin.getElem_fin]
  exact Vector.getElem_set_ne _ _ hv

theorem State.setMap_map (s : State) (c d : HeadId) (x : NozzleMap) :
    (s.setMap c x).map d = if d = c then x else s.map d := by
  split
  · next h => subst h; simp
  · next h => exact State.setMap_map_ne s c d x h

@[simp] theorem State.withPending_map (s : State) (x : List Instr) (c : HeadId) : (s.withPending x).map c = s.map c := rfl
@[simp] theorem State.withTick_map (s : State) (x : Nat) (c : HeadId) : (s.withTick x).map c = s.map c := rfl
@[simp] theorem State.withPosn_map (s : State) (x : PositionUnit) (c : HeadId) : (s.withPosn x).map c = s.map c := rfl
@[simp] theorem State.withReader_map (s : State) (x : Reader) (c : HeadId) : (s.withReader x).map c = s.map c := rfl
@[simp] theorem State.withWin_map (s : State) (x : Window) (c : HeadId) : (s.withWin x).map c = s.map c := rfl
@[simp] theorem State.withLayout_map (s : State) (x : Option Layout) (c : HeadId) : (s.withLayout x).map c = s.map c := rfl
@[simp] theorem State.withChans_map (s : State) (x : Vector Channel 32) (c : HeadId) : (s.withChans x).map c = s.map c := rfl
@[simp] theorem State.withHeads_map (s : State) (x : Vector HeadLink 16) (c : HeadId) : (s.withHeads x).map c = s.map c := rfl
@[simp] theorem State.withPort_map (s : State) (x : MemoryPort) (c : HeadId) : (s.withPort x).map c = s.map c := rfl
@[simp] theorem State.withCtl_map (s : State) (x : EngineControl) (c : HeadId) : (s.withCtl x).map c = s.map c := rfl
@[simp] theorem State.withMaps_map (s : State) (x : Vector NozzleMap 16) (c : HeadId) : (s.withMaps x).map c = x[c] := rfl

/-- A vector given by its elements holds them. -/
@[simp] theorem getElem_tabulate_val {α : Type} (n : Nat) (f : Fin n → α) (i : Nat) (h : i < n) :
    (tabulate n f)[i] = f ⟨i, h⟩ := by
  simp [tabulate]

theorem getElem_tabulate {α : Type} (n : Nat) (f : Fin n → α) (i : Fin n) : (tabulate n f)[i] = f i := by
  simp

end Sys2Proof.Machine
end

