-- ==== Sys2Proof/Laws/Runs.lean ====
section
/-! SUPPORT. What the channels' shared operations can do, said once: `Runs s t` holds of every crossing,
line-pass, ship request, flush, park and return, and is transitive, so a later proof cites it instead of
unfolding one of them. -/

namespace Sys2Proof.Machine

/-- From `s` to `t` only the channels' work has gone on: band counters rose, holds may have ended, the engine
may have halted with the reader's read discarded, and channels and links changed within their laws. -/
structure Runs (s t : State) : Prop where
  pending : t.pending = s.pending
  tick : t.tick = s.tick
  posn : t.posn = s.posn
  layout : t.layout = s.layout
  win : t.win = { s.win with bands := t.win.bands }
  plans : t.win.bands.map BandEntry.plan = s.win.bands.map BandEntry.plan
  sets : ∀ h, (t.map h).sets = (s.map h).sets
  reader : t.reader = { s.reader with work := t.reader.work }
  work : t.reader.work = s.reader.work ∨ t.reader.work = .idle
  linkUp : t.port.linkUp = s.port.linkUp
  failed : t.port.failed = s.port.failed
  engine : t.ctl.engine = s.ctl.engine ∨ t.ctl.engine = .halted
  kept : t.ctl.enables = s.ctl.enables ∧ t.ctl.capture = s.ctl.capture ∧ t.ctl.readData = s.ctl.readData
  counts : (∀ b ∈ s.win.bands, b.CountLaw s.layout) → ∀ b ∈ t.win.bands, b.CountLaw t.layout
  queues : LineQueueLaw s → LineQueueLaw t
  irq : InterruptLaw s → InterruptLaw t
  service : ServiceLaw s → ServiceLaw t

theorem Runs.refl (s : State) : Runs s s where
  pending := rfl
  tick := rfl
  posn := rfl
  layout := rfl
  win := rfl
  plans := rfl
  sets _ := rfl
  reader := rfl
  work := .inl rfl
  linkUp := rfl
  failed := rfl
  engine := .inl rfl
  kept := ⟨rfl, rfl, rfl⟩
  counts := id
  queues := id
  irq := id
  service := id

theorem Runs.trans {s t u : State} (h : Runs s t) (k : Runs t u) : Runs s u where
  pending := k.pending.trans h.pending
  tick := k.tick.trans h.tick
  posn := k.posn.trans h.posn
  layout := k.layout.trans h.layout
  win := by rw [k.win, h.win]
  plans := k.plans.trans h.plans
  sets x := (k.sets x).trans (h.sets x)
  reader := by rw [k.reader, h.reader]
  work := by
    rcases k.work with e | e
    · rw [e]; exact h.work
    · exact .inr e
  linkUp := k.linkUp.trans h.linkUp
  failed := k.failed.trans h.failed
  engine := by
    rcases k.engine with e | e
    · rw [e]; exact h.engine
    · exact .inr e
  kept := ⟨k.kept.1.trans h.kept.1, k.kept.2.1.trans h.kept.2.1, k.kept.2.2.trans h.kept.2.2⟩
  counts x := k.counts (h.counts x)
  queues x := k.queues (h.queues x)
  irq x := k.irq (h.irq x)
  service x := k.service (h.service x)

/-- A run over a list of channels or heads. -/
theorem Runs.foldl {α : Type} (f : State → α → State) (hf : ∀ s a, Runs s (f s a)) (l : List α) (s : State) :
    Runs s (l.foldl f s) := by
  induction l generalizing s with
  | nil => exact .refl s
  | cons a l ih => exact (hf s a).trans (ih _)

/-- A run that a condition may leave out. -/
theorem Runs.ite {s t u : State} {p : Prop} [Decidable p] (ht : p → Runs s t) (hu : ¬p → Runs s u) :
    Runs s (if p then t else u) := by
  split
  · next h => exact ht h
  · next h => exact hu h

/-! ## Single changes -/

theorem LineQueueLaw.setChan {s : State} {c : ChanId} {x : Channel} (h : LineQueueLaw s) (hx : x.QueueLaw) :
    LineQueueLaw (s.setChan c x) := by
  intro d
  rw [State.setChan_chan]
  split
  · exact hx
  · exact h d

theorem ServiceLaw.setHead {s : State} {c : HeadId} {x : HeadLink} (h : ServiceLaw s) (hx : x.ServiceLaw) :
    ServiceLaw (s.setHead c x) := by
  intro d
  rw [State.setHead_head]
  split
  · exact hx
  · exact h d

/-- A channel changed within the law of its queue. -/
theorem Runs.setChan (s : State) (c : ChanId) (x : Channel) (hx : (s.chan c).QueueLaw → x.QueueLaw) :
    Runs s (s.setChan c x) :=
  { Runs.refl s with queues := fun h => h.setChan (hx (h c)) }

/-- A head link changed within the law of its service. -/
theorem Runs.setHead (s : State) (c : HeadId) (x : HeadLink) (hx : (s.head c).ServiceLaw → x.ServiceLaw) :
    Runs s (s.setHead c x) :=
  { Runs.refl s with service := fun h => h.setHead (hx (h c)) }

/-- The port's transfers, tags and messages changed. -/
theorem Runs.withPort (s : State) (p : MemoryPort) (h1 : p.linkUp = s.port.linkUp) (h2 : p.failed = s.port.failed) :
    Runs s (s.withPort p) :=
  { Runs.refl s with linkUp := h1, failed := h2 }

/-! ## Events, discards and the halt -/

theorem setEvents_spec (events enables : BitVec 9) (s : State) :
    setEvents events enables s =
      (s.withCtl { s.ctl with events := events, enables := enables, irq := irqOf events enables }).withPort
        (if irqOf events enables && !s.ctl.irq && s.port.linkUp
          then { s.port with outbox := s.port.outbox ++ [.interrupt] } else s.port) := by
  unfold setEvents
  dsimp only
  split <;> rfl

/-- Raising an event sets its flag, and the interrupt output follows. -/
theorem raise_runs (e : Event) (s : State) : Runs s (raise e s) := by
  unfold raise
  rw [setEvents_spec]
  exact
    { Runs.refl s with
      linkUp := by simp only [State.withPort_port]; split <;> rfl
      failed := by simp only [State.withPort_port]; split <;> rfl
      irq := fun _ => rfl }

theorem freeGrant_spec (p : MemoryPort) : ∃ g, freeGrant p = { p with grant := g } := by
  unfold freeGrant
  repeat' split
  all_goals exact ⟨_, rfl⟩

theorem discard_runs (x : Nat) (s : State) : Runs s (discard x s) := by
  unfold discard dropTransfer
  obtain ⟨g, e⟩ := freeGrant_spec { s.port with transfers := s.port.transfers.filter fun t => decide (t.id ≠ x) }
  rw [e]
  exact .withPort _ _ rfl rfl

theorem discardReads_runs (s : State) : Runs s (discardReads s) := by
  unfold discardReads
  split
  · exact (discard_runs _ s).trans { Runs.refl _ with reader := rfl, work := .inr rfl }
  · exact .refl s

theorem halt_runs (c : HaltCause) (s : State) : Runs s (halt c s) := by
  unfold halt
  refine .ite (fun _ => ?_) fun _ => .refl s
  refine Runs.trans ?_ (raise_runs _ _)
  refine Runs.trans ?_ (discardReads_runs _)
  exact { Runs.refl s with engine := .inr rfl, kept := ⟨rfl, rfl, rfl⟩, irq := id }

/-! ## Ship requests, withdrawals and compose places -/

theorem addRequest_runs (h : HeadId) (k : RequestKind) (s : State) : Runs s (addRequest h k s) :=
  .setHead _ _ _ fun x => { timer := x.timer, config := x.config, ready := x.ready, band := x.band }

theorem requestShip_runs (c : ChanId) (s : State) : Runs s (requestShip c s) := by
  unfold requestShip
  refine .ite (fun _ => ?_) fun _ => .refl s
  exact Runs.trans (.setChan s c _ (by exact id)) (addRequest_runs _ _ _)

theorem withdrawRequest_runs (c : ChanId) (s : State) : Runs s (withdrawRequest c s) := by
  unfold withdrawRequest
  refine .ite (fun _ => ?_) fun _ => .refl s
  exact Runs.trans (.setChan s c _ (by exact id))
    (.setHead _ _ _ (by exact fun x => { timer := x.timer, config := x.config, ready := x.ready, band := x.band }))

theorem withdrawTransit_runs (c : ChanId) (s : State) : Runs s (withdrawTransit c s) := by
  unfold withdrawTransit
  split
  · exact .setHead _ _ _ fun x => { timer := x.timer, config := x.config, ready := x.ready, band := x.band }
  · exact .refl s
  · exact .refl s

theorem adjustCompose_runs (c : ChanId) (s : State) : Runs s (adjustCompose c s) := by
  unfold adjustCompose
  split
  · exact .ite (fun _ => .setChan _ _ _ id) fun _ => .refl s
  · exact .refl s

/-! ## Line-passes -/

theorem releasePins_runs (s : State) : Runs s (releasePins s) :=
  { Runs.refl s with
    sets := fun h => by
      simp only [releasePins, State.withMaps_map, getElem_tabulate, releasedMap]
      split <;> rfl }

theorem reportTo_plan (o : PassOutcome) (b : BandEntry) : (reportTo o b).plan = b.plan := by
  cases o <;> rfl

theorem reportTo_counts (l : Option Layout) (o : PassOutcome) (b : BandEntry) (h : b.CountLaw l) :
    (reportTo o b).CountLaw l := by
  obtain ⟨h1, h2, h3⟩ := h
  cases o with
  | fired df lost =>
    exact ⟨by simp only [reportTo]; split <;> omega, fun e => by have := h2 e; simp only [reportTo]; omega,
      fun e => by have := h3 e; simp only [reportTo]; omega⟩
  | starved =>
    exact ⟨h1, fun e => by have := h2 e; simp only [reportTo]; omega, fun e => by have := h3 e; simp only [reportTo]; omega⟩
  | dropped =>
    exact ⟨h1, fun e => by have := h2 e; simp only [reportTo]; omega, fun e => by have := h3 e; simp only [reportTo]; omega⟩
  | skipped k =>
    exact ⟨h1, fun e => by have := h2 e; simp only [reportTo]; omega, fun e => by have := h3 e; simp only [reportTo]; omega⟩

theorem mapBand_report_runs (id : Nat) (o : PassOutcome) (s : State) : Runs s (mapBand id (reportTo o) s) :=
  { Runs.refl s with
    win := rfl
    plans := by
      simp only [mapBand, State.withWin_win, List.map_map]
      refine List.map_congr_left fun b _ => ?_
      simp only [Function.comp]
      split
      · exact reportTo_plan o b
      · rfl
    counts := fun h b hb => by
      simp only [mapBand, State.withWin_win, List.mem_map] at hb
      obtain ⟨b', hb', rfl⟩ := hb
      split
      · exact reportTo_counts _ o b' (h b' hb')
      · exact h b' hb' }

theorem dropFront_length (r : LineRef) (q : List ComposedLine) : (dropFront r q).length ≤ q.length := by
  cases q with
  | nil => simp [dropFront]
  | cons l ls => simp only [dropFront]; split <;> simp

theorem passedChannel_law (r : LineRef) (after : Option LineRef) (ch : Channel) (h : ch.QueueLaw) :
    (passedChannel r after ch).QueueLaw := by
  have hl := dropFront_length r ch.queue
  refine ⟨hl.trans h.1, fun hs => ?_⟩
  have hlive : ch.live.isSome = true := by
    simp only [passedChannel] at hs
    split at hs
    · simp at hs
    · exact hs
  exact lt_of_le_of_lt hl (h.2 hlive)

theorem linePass_runs (c : ChanId) (o : PassOutcome) (s : State) : Runs s (linePass c o s) := by
  unfold linePass
  split
  · exact .refl s
  · next r _ =>
    refine Runs.trans ?_ (releasePins_runs _)
    refine Runs.trans ?_ (adjustCompose_runs _ _)
    exact (mapBand_report_runs _ _ _).trans (.setChan _ _ _ (passedChannel_law r _ _))

theorem fire_runs (c : ChanId) (l : ComposedLine) (s : State) : Runs s (fire c l s) :=
  Runs.trans (.setChan s c _ (by exact id)) (linePass_runs _ _ _)

theorem starve_runs (c : ChanId) (s : State) : Runs s (starve c s) := by
  unfold starve
  have h := linePass_runs c .starved s
  split
  · exact .ite (fun _ => h.trans (halt_runs _ _)) fun _ => h
  · exact h

theorem crossWaiting_runs (c : ChanId) (s : State) : Runs s (crossWaiting c s) := by
  unfold crossWaiting
  split
  · exact .ite (fun _ => fire_runs _ _ _) fun _ => .setChan _ _ _ id
  · exact starve_runs _ _

theorem dropDeferred_runs (c : ChanId) (s : State) : Runs s (dropDeferred c s) :=
  ((withdrawTransit_runs c s).trans (withdrawRequest_runs _ _)).trans (linePass_runs _ _ _)

theorem crossing_runs (c : ChanId) (s : State) : Runs s (crossing c s) := by
  unfold crossing
  split
  · exact .refl s
  · exact .refl s
  · exact linePass_runs _ _ _
  · exact crossWaiting_runs _ _
  · have h := dropDeferred_runs c s
    dsimp only
    split
    · exact h.trans (crossWaiting_runs _ _)
    · exact h.trans (linePass_runs _ _ _)
    · exact h
    · exact h
    · exact h

theorem settleLoop_runs (n : Nat) (c : ChanId) (s : State) : Runs s (settleLoop n c s) := by
  induction n generalizing s with
  | zero => exact .refl s
  | succ n ih =>
    unfold settleLoop
    split
    · exact .ite (fun _ => (crossing_runs c s).trans (ih _)) fun _ => .refl s
    · exact .refl s

theorem settle_runs (c : ChanId) (s : State) : Runs s (settle c s) :=
  (settleLoop_runs _ c s).trans (requestShip_runs c _)

theorem settleAll_runs (s : State) : Runs s (settleAll s) := .foldl _ (fun s c => settle_runs c s) _ s

theorem fireDeferred_runs (c : ChanId) (s : State) : Runs s (fireDeferred c s) := by
  unfold fireDeferred
  split
  · exact (fire_runs _ _ _).trans (settle_runs _ _)
  · exact .refl s

theorem offerCount_runs (p : Position) (c : ChanId) (s : State) : Runs s (offerCount p c s) := by
  unfold offerCount
  split
  · exact .ite (fun _ => (crossing_runs _ _).trans (settle_runs _ _)) fun _ => .refl s
  · exact .refl s

/-! ## Flushes, parks, configurations and returns -/

/-- The line fetches of a channel leave the port's list, and the grant may be freed (R95, R126). -/
theorem dropFetches_spec (c : ChanId) (p : MemoryPort) :
    ∃ g, dropFetches c p = { p with transfers := p.transfers.filter fun t => !t.fetches c, grant := g } :=
  freeGrant_spec _

theorem dropLive_runs (c : ChanId) (s : State) : Runs s (dropLive c s) := by
  unfold dropLive
  obtain ⟨g, e⟩ := dropFetches_spec c s.port
  have h : Runs s (s.withPort (dropFetches c s.port)) := .withPort _ _ (by rw [e]) (by rw [e])
  refine h.trans (.setChan _ _ _ fun h => ⟨h.1, fun e => ?_⟩)
  simp at e

theorem flushedQueue_length (ch : Channel) : (flushedQueue ch).length ≤ ch.queue.length := by
  unfold flushedQueue
  split
  · exact List.length_filter_le _ _
  · simp
  · simp

theorem flush_runs (c : ChanId) (s : State) : Runs s (flush c s) := by
  unfold flush
  dsimp only
  have h1 := ((withdrawTransit_runs c s).trans (withdrawRequest_runs c _)).trans (dropLive_runs c _)
  generalize dropLive c (withdrawRequest c (withdrawTransit c s)) = s1 at h1 ⊢
  have h2 := h1.trans ((Runs.setChan s1 c
    { s1.chan c with
      queue := flushedQueue (s1.chan c), slot := flushedSlot (s1.chan c).slot, compose := flushPlace s c }
    fun h => ⟨(flushedQueue_length _).trans h.1, fun e => lt_of_le_of_lt (flushedQueue_length _) (h.2 e)⟩).trans
    (adjustCompose_runs c _))
  exact .ite (fun _ => h2.trans ((starve_runs _ _).trans (settle_runs _ _))) fun _ => h2

theorem parkChannel_runs (c : ChanId) (s : State) : Runs s (parkChannel c s) := by
  unfold parkChannel
  dsimp only
  have h1 := (withdrawTransit_runs c s).trans (withdrawRequest_runs c _)
  generalize withdrawRequest c (withdrawTransit c s) = s1 at h1 ⊢
  have h2 := h1.trans (Runs.setChan s1 c { s1.chan c with queue := [], slot := .empty }
    fun _ => ⟨by simp [Config.lineQueueMax], fun _ => by simp [Config.lineQueueMax]⟩)
  refine Runs.trans ?_ (settle_runs _ _)
  exact .ite (fun _ => h2.trans (linePass_runs _ _ _)) fun _ => h2

theorem parkedLink_law (linkCause : Bool) (now : Nat) (d : HeadLink) : (parkedLink linkCause now d).ServiceLaw where
  timer := rfl
  config := rfl
  ready := by simp [parkedLink]
  band := by simp [parkedLink]

theorem park_runs (h : HeadId) (linkCause : Bool) (s : State) : Runs s (park h linkCause s) := by
  unfold park
  refine .ite (fun _ => .refl s) fun _ => ?_
  dsimp only
  refine Runs.trans ?_ (raise_runs _ _)
  refine Runs.trans ?_ (.foldl _ (fun s c => flush_runs c s) _ _)
  refine Runs.trans ?_ (.foldl _ (fun s c => parkChannel_runs c s) _ _)
  exact .setHead _ _ _ fun _ => parkedLink_law _ _ _

theorem beginConfiguration_runs (h : HeadId) (s : State)
    (hc : (s.head h).service = .configuring ∨ (s.head h).service = .returning) : Runs s (beginConfiguration h s) := by
  unfold beginConfiguration
  refine Runs.trans (.setHead _ _ _ fun x => ?_) (addRequest_runs _ _ _)
  refine { timer := x.timer, config := ?_, ready := x.ready, band := x.band }
  rcases hc with e | e <;> simp [e]

theorem returnHead_runs (band : Nat) (h : HeadId) (s : State) : Runs s (returnHead band h s) := by
  unfold returnHead
  dsimp only
  refine .ite (fun _ => ?_) fun _ => .refl s
  refine Runs.trans ?_ (.foldl _ (fun s c => adjustCompose_runs c s) _ _)
  -- the return and its configuration begin as one change of the head
  unfold beginConfiguration
  dsimp only
  refine Runs.trans ?_ (addRequest_runs _ _ _)
  have e : ∀ (s : State) (x y : HeadLink), (s.setHead h x).setHead h y = s.setHead h y := by
    intro s x y; simp [State.setHead, State.withHeads]
  rw [e]
  exact .setHead _ _ _ fun _ => { timer := by simp, config := by simp, ready := by simp, band := by simp }

theorem returnHeads_runs (band : Nat) (s : State) : Runs s (returnHeads band s) :=
  .foldl _ (fun s h => returnHead_runs band h s) _ s

end Sys2Proof.Machine
end

