-- ==== Sys2Proof/Laws/Keeps.lean ====
section
/-! SUPPORT. The channels' shared operations keep every law of the part: one lemma per law, over `Runs`. -/

namespace Sys2Proof.Machine

variable {s t : State}

theorem Runs.bands_length (h : Runs s t) : t.win.bands.length = s.win.bands.length := by
  have := congrArg List.length h.plans
  simpa using this

theorem Runs.unbound (h : Runs s t) : t.win.unbound = s.win.unbound := by rw [h.win]

theorem Runs.pages (h : Runs s t) : t.win.pages = s.win.pages := by rw [h.win]

theorem Runs.productQueueLaw (h : Runs s t) (l : ProductQueueLaw s) : ProductQueueLaw t := by
  unfold ProductQueueLaw at *
  rw [h.posn, h.unbound]
  exact l

theorem Runs.windowLaw (h : Runs s t) (l : WindowLaw s) : WindowLaw t := by
  refine ⟨by rw [h.bands_length]; exact l.1, fun e => ?_⟩
  rcases h.engine with k | k
  · have := l.2 (k ▸ e)
    have hl := h.bands_length
    rw [this] at hl
    exact List.eq_nil_of_length_eq_zero hl
  · rw [k] at e; cases e

theorem Runs.numberingLaw (h : Runs s t) (l : NumberingLaw s) : NumberingLaw t where
  bands := by
    have k := (List.pairwise_map (f := BandEntry.plan) (R := fun a b => a.id < b.id)).2 l.bands
    rw [← h.plans] at k
    exact (List.pairwise_map (f := BandEntry.plan) (R := fun a b => a.id < b.id)).1 k
  nextBand b m := by
    obtain ⟨c, d, e⟩ := List.mem_map.1 (h.plans ▸ List.mem_map_of_mem (f := BandEntry.plan) m)
    rw [h.win, show b.id = c.id from (congrArg BandEntry.id e).symm]
    exact l.nextBand c d
  pages := by rw [h.pages]; exact l.pages
  nextPage := by rw [h.win]; exact l.nextPage

theorem Runs.pageOrderLaw (h : Runs s t) (l : PageOrderLaw s) : PageOrderLaw t where
  openPage := by rw [h.win]; exact l.openPage
  prevPage := by rw [h.win]; exact l.prevPage
  pred := by rw [h.pages]; exact l.pred
  firstBand := by rw [h.win]; exact l.firstBand

theorem Runs.bandCountLaw (h : Runs s t) (l : BandCountLaw s) : BandCountLaw t := by
  refine ⟨h.counts l.1, fun x r n e => ?_⟩
  rcases h.work with w | w
  · have hl := h.bands_length
    rw [l.2 x r n (w ▸ e)] at hl
    exact List.eq_nil_of_length_eq_zero hl
  · rw [w] at e; cases e

theorem Runs.nozzleSetLaw (h : Runs s t) (l : NozzleSetLaw s) : NozzleSetLaw t where
  active x := by
    rw [h.layout, show (t.map x).active = (s.map x).active from congrArg Prod.fst (h.sets x)]
    exact l.active x
  staged x st e := by
    rw [h.layout]
    exact l.staged x st ((congrArg Prod.snd (h.sets x)).symm.trans e)
  nozzles := by rw [h.layout]; exact l.nozzles
  drained x r n e := by
    intro k
    rw [show (t.map k).staged = (s.map k).staged from congrArg Prod.snd (h.sets k)]
    rcases h.work with w | w
    · exact l.drained x r n (w ▸ e) k
    · rw [w] at e; cases e

theorem Runs.recordAddressLaw (h : Runs s t) (l : RecordAddressLaw s) : RecordAddressLaw t := by
  obtain ⟨l1, l2, l3⟩ := l
  refine ⟨by rw [h.reader]; exact l1, by rw [h.reader]; exact l2, fun n e => ?_⟩
  rcases h.work with w | w
  · exact l3 n (w ▸ e)
  · rw [w] at e; cases e

theorem Runs.suspensionLaw (h : Runs s t) (l : SuspensionLaw s) : SuspensionLaw t := by
  intro e
  rcases h.engine with k | k
  · obtain ⟨a, b⟩ := l (k ▸ e)
    refine ⟨?_, by rw [h.reader]; exact b⟩
    rcases h.work with w | w
    · rw [w]; exact a
    · exact w
  · rw [k] at e; cases e

end Sys2Proof.Machine
end

