-- ==== Sys2Proof/Laws/Reads.lean ====
section
/-! SUPPORT. What the shared operations of the reader and the Memory Port can do: `Reads s t` holds of a read
that begins or is dropped, a unit handed over, an event, a suspension and the following of NEXT. They touch the
reader, the port and Engine Control alone. -/

namespace Sys2Proof.Machine

/-- From `s` to `t` only the reader, the Memory Port and Engine Control have changed, and the interrupt output
still follows the flags. -/
structure Reads (s t : State) : Prop where
  pending : t.pending = s.pending
  tick : t.tick = s.tick
  posn : t.posn = s.posn
  win : t.win = s.win
  layout : t.layout = s.layout
  maps : t.maps = s.maps
  chans : t.chans = s.chans
  heads : t.heads = s.heads
  listHead : t.reader.listHead = s.reader.listHead
  linkUp : t.port.linkUp = s.port.linkUp
  kept : t.ctl.enables = s.ctl.enables ∧ t.ctl.capture = s.ctl.capture ∧ t.ctl.readData = s.ctl.readData
  irq : InterruptLaw s → InterruptLaw t

theorem Reads.refl (s : State) : Reads s s := ⟨rfl, rfl, rfl, rfl, rfl, rfl, rfl, rfl, rfl, rfl, ⟨rfl, rfl, rfl⟩, id⟩

theorem Reads.trans {s t u : State} (h : Reads s t) (k : Reads t u) : Reads s u where
  pending := k.pending.trans h.pending
  tick := k.tick.trans h.tick
  posn := k.posn.trans h.posn
  win := k.win.trans h.win
  layout := k.layout.trans h.layout
  maps := k.maps.trans h.maps
  chans := k.chans.trans h.chans
  heads := k.heads.trans h.heads
  listHead := k.listHead.trans h.listHead
  linkUp := k.linkUp.trans h.linkUp
  kept := ⟨k.kept.1.trans h.kept.1, k.kept.2.1.trans h.kept.2.1, k.kept.2.2.trans h.kept.2.2⟩
  irq x := k.irq (h.irq x)

theorem Reads.ite {s t u : State} {p : Prop} [Decidable p] (ht : p → Reads s t) (hu : ¬p → Reads s u) :
    Reads s (if p then t else u) := by
  split
  · next h => exact ht h
  · next h => exact hu h

/-- The reader changed, LIST_HEAD kept. -/
theorem Reads.withReader (s : State) (r : Reader) (h : r.listHead = s.reader.listHead) : Reads s (s.withReader r) :=
  { Reads.refl s with listHead := h }

/-- The port changed, the link as it was. -/
theorem Reads.withPort (s : State) (p : MemoryPort) (h : p.linkUp = s.port.linkUp) : Reads s (s.withPort p) :=
  { Reads.refl s with linkUp := h }

theorem setEvents_reads (events : BitVec 9) (s : State) : Reads s (setEvents events s.ctl.enables s) := by
  rw [setEvents_spec]
  exact { Reads.refl s with
    linkUp := by simp only [State.withPort_port]; split <;> rfl
    irq := fun _ => rfl }

/-! ## Reader and engine are left alone by events and writes -/

@[simp] theorem setEvents_reader (ev en : BitVec 9) (s : State) : (setEvents ev en s).reader = s.reader := by
  rw [setEvents_spec]; rfl

@[simp] theorem setEvents_engine (ev en : BitVec 9) (s : State) :
    (setEvents ev en s).ctl = { s.ctl with events := ev, enables := en, irq := irqOf ev en } := by
  rw [setEvents_spec]; rfl

@[simp] theorem raise_reader (e : Event) (s : State) : (raise e s).reader = s.reader := setEvents_reader _ _ _

@[simp] theorem raise_engine (e : Event) (s : State) : (raise e s).ctl.engine = s.ctl.engine := by
  unfold raise; rw [setEvents_engine]

@[simp] theorem raise_events (e : Event) (s : State) : (raise e s).ctl.events = s.ctl.events ||| eventMask e := by
  unfold raise; rw [setEvents_engine]

theorem raise_reads (e : Event) (s : State) : Reads s (raise e s) := setEvents_reads _ _

/-- A unit handed over: with the link up its writes are posted in order and NOTIFY raises RECORD_CLOSED; with the
link down it waits to be reported (R37, R38). -/
theorem handOver_spec (u : WriteUnit) (s : State) :
    handOver u s =
      if s.port.linkUp then
        (if u.notify then raise .recordClosed (postWrites u.writes s) else postWrites u.writes s)
      else s.withPort { s.port with failed := s.port.failed ++ [{ unit := u, place := s.port.outbox.length }] } := rfl

theorem handOver_reads (u : WriteUnit) (s : State) : Reads s (handOver u s) := by
  unfold handOver
  refine .ite (fun _ => ?_) fun _ => .withPort _ _ rfl
  have h : Reads s (postWrites u.writes s) := .withPort _ _ rfl
  exact .ite (fun _ => h.trans (raise_reads _ _)) fun _ => h

@[simp] theorem handOver_reader (u : WriteUnit) (s : State) : (handOver u s).reader = s.reader := by
  unfold handOver postWrites; repeat' split
  all_goals simp

@[simp] theorem handOver_engine (u : WriteUnit) (s : State) : (handOver u s).ctl.engine = s.ctl.engine := by
  unfold handOver postWrites; repeat' split
  all_goals simp

/-! ## Read transfers -/

theorem issueRequests_port (may : Nat → Nat → Bool) (now : Nat) (rs : List (Addr × Nat)) (t : Transfer) (p : MemoryPort) :
    ∃ tags, (issueRequests may now rs t p).2 = { p with tags := tags } := by
  induction rs generalizing t p with
  | nil => exact ⟨_, rfl⟩
  | cons r rs ih =>
    unfold issueRequests
    split
    · split
      · split
        · obtain ⟨tags, e⟩ := ih _ _
          exact ⟨tags, by rw [e]; rfl⟩
        · exact ⟨_, rfl⟩
      · exact ⟨_, rfl⟩
    · exact ⟨_, rfl⟩

theorem pumpTransfer_port (may : Nat → Nat → Bool) (now : Nat) (t : Transfer) (p : MemoryPort) :
    ∃ tags ts, pumpTransfer may now t p = { p with tags := tags, transfers := ts } := by
  obtain ⟨tags, e⟩ := issueRequests_port may now t.todo t p
  unfold pumpTransfer putTransfer
  dsimp only
  rw [e]
  exact ⟨_, _, rfl⟩

/-- Issuing requests changes tags, transfers and the grant holder alone. -/
theorem pumpPort_spec (now : Nat) (p : MemoryPort) :
    ∃ tags ts g, pumpPort now p = { p with tags := tags, transfers := ts, grant := g } := by
  have h1 : ∃ tags ts, pumpRecord now p = { p with tags := tags, transfers := ts } := by
    unfold pumpRecord
    split
    · exact pumpTransfer_port _ _ _ _
    · exact ⟨_, _, rfl⟩
  have h2 : ∀ q : MemoryPort, ∃ tags ts, pumpFetch now q = { q with tags := tags, transfers := ts } := by
    intro q
    unfold pumpFetch
    split
    · exact pumpTransfer_port _ _ _ _
    · exact ⟨_, _, rfl⟩
  obtain ⟨tags1, ts1, e1⟩ := h1
  obtain ⟨tags2, ts2, e2⟩ := h2 (pumpRecord now p)
  obtain ⟨g, e3⟩ := freeGrant_spec (pumpFetch now (pumpRecord now p))
  unfold pumpPort
  exact ⟨tags2, ts2, g, by rw [e3, e2, e1]⟩

theorem pump_spec (s : State) :
    ∃ tags ts g, pump s = s.withPort { s.port with tags := tags, transfers := ts, grant := g } := by
  obtain ⟨tags, ts, g, e⟩ := pumpPort_spec s.tick s.port
  exact ⟨tags, ts, g, by unfold pump; rw [e]⟩

/-- A read transfer begins: the port's tags, transfers, numbering and grant holder change, and nothing else. -/
theorem startTransfer_spec (fetch : Option (ChanId × LineRef)) (a : Addr) (len : Nat) (s : State) :
    ∃ tags ts g, startTransfer fetch a len s =
      s.withPort { s.port with tags := tags, transfers := ts, nextXfer := s.port.nextXfer + 1, grant := g } := by
  obtain ⟨tags, ts, g, e⟩ := pumpPort_spec s.tick
    { s.port with
      transfers := s.port.transfers ++
        [{ id := s.port.nextXfer, fetch := fetch, todo := cutRead (len + 1) a len, nextIndex := 0, inFlight := 0,
           chunks := [], failed := false }]
      nextXfer := s.port.nextXfer + 1
      grant := if fetch.isSome then some s.port.nextXfer else s.port.grant }
  refine ⟨tags, ts, g, ?_⟩
  show s.withPort (pumpPort s.tick _) = _
  exact congrArg s.withPort e

theorem startTransfer_runs (fetch : Option (ChanId × LineRef)) (a : Addr) (len : Nat) (s : State) :
    Runs s (startTransfer fetch a len s) := by
  obtain ⟨_, _, _, e⟩ := startTransfer_spec fetch a len s
  rw [e]; exact .withPort _ _ rfl rfl

theorem pump_runs (s : State) : Runs s (pump s) := by
  obtain ⟨_, _, _, e⟩ := pump_spec s
  rw [e]; exact .withPort _ _ rfl rfl

theorem startTransfer_reads (fetch : Option (ChanId × LineRef)) (a : Addr) (len : Nat) (s : State) :
    Reads s (startTransfer fetch a len s) := by
  obtain ⟨_, _, _, e⟩ := startTransfer_spec fetch a len s
  rw [e]; exact .withPort _ _ rfl

@[simp] theorem startTransfer_reader (fetch : Option (ChanId × LineRef)) (a : Addr) (len : Nat) (s : State) :
    (startTransfer fetch a len s).reader = s.reader := by
  obtain ⟨_, _, _, e⟩ := startTransfer_spec fetch a len s; rw [e]; rfl

@[simp] theorem startTransfer_ctl (fetch : Option (ChanId × LineRef)) (a : Addr) (len : Nat) (s : State) :
    (startTransfer fetch a len s).ctl = s.ctl := by
  obtain ⟨_, _, _, e⟩ := startTransfer_spec fetch a len s; rw [e]; rfl

theorem discard_spec (x : Nat) (s : State) :
    ∃ g, discard x s = s.withPort
      { s.port with transfers := s.port.transfers.filter (fun t => decide (t.id ≠ x)), grant := g } := by
  obtain ⟨g, e⟩ := freeGrant_spec { s.port with transfers := s.port.transfers.filter fun t => decide (t.id ≠ x) }
  exact ⟨g, by unfold discard dropTransfer; rw [e]⟩

theorem discard_reads (x : Nat) (s : State) : Reads s (discard x s) := by
  obtain ⟨_, e⟩ := discard_spec x s
  rw [e]; exact .withPort _ _ rfl

@[simp] theorem discard_reader (x : Nat) (s : State) : (discard x s).reader = s.reader := by
  obtain ⟨_, e⟩ := discard_spec x s; rw [e]; rfl

@[simp] theorem discard_ctl (x : Nat) (s : State) : (discard x s).ctl = s.ctl := by
  obtain ⟨_, e⟩ := discard_spec x s; rw [e]; rfl

/-! ## The reader's moves -/

/-- Discarding the reader's read leaves the engine and the rest of the reader. -/
theorem discardReads_spec (s : State) :
    Reads s (discardReads s) ∧ (discardReads s).ctl = s.ctl ∧
    (discardReads s).reader = { s.reader with work := if (readerXfer s.reader.work).isSome then .idle else s.reader.work } := by
  unfold discardReads
  split
  · next x h =>
    refine ⟨(discard_reads x s).trans (.withReader _ _ rfl), by simp [setWork], ?_⟩
    simp [setWork, h]
  · next h => exact ⟨.refl s, rfl, by simp [h]⟩

/-- The halt: from RUNNING, SUSPENDED or DRAINING the engine is HALTED with the cause and ENGINE_HALTED is raised,
the reader's read discarded; otherwise nothing (R182). -/
theorem halt_spec (c : HaltCause) (s : State) :
    Reads s (halt c s) ∧
    (working s = true → (halt c s).ctl.engine = .halted ∧ (halt c s).ctl.cause = c ∧
      (halt c s).ctl.events = s.ctl.events ||| eventMask .engineHalted ∧
      (halt c s).reader =
        { s.reader with work := if (readerXfer s.reader.work).isSome then .idle else s.reader.work }) ∧
    (working s = false → halt c s = s) := by
  unfold halt
  by_cases hw : working s = true
  · simp only [hw, if_true]
    generalize hx : s.withCtl { s.ctl with engine := .halted, cause := c } = s1
    obtain ⟨h1, h2, h3⟩ := discardReads_spec s1
    have e1 : s1.ctl = { s.ctl with engine := .halted, cause := c } := by rw [← hx]; rfl
    have e2 : s1.reader = s.reader := by rw [← hx]; rfl
    refine ⟨?_, fun _ => ⟨?_, ?_, ?_, ?_⟩, by simp⟩
    · refine Reads.trans ?_ (h1.trans (raise_reads _ _))
      rw [← hx]
      exact { Reads.refl s with kept := ⟨rfl, rfl, rfl⟩, irq := id }
    · rw [raise_engine, h2, e1]
    · unfold raise; rw [setEvents_engine, h2, e1]
    · rw [raise_events, h2, e1]
    · rw [raise_reader, h3, e2]
  · simp only [hw]
    exact ⟨.refl s, by simp, fun _ => rfl⟩

/-- A suspension (R31, R32). -/
theorem suspendReader_spec (c : ReaderCondition) (s : State) :
    Reads s (suspendReader c s) ∧ (suspendReader c s).reader = { s.reader with cond := c, work := .idle } ∧
    (suspendReader c s).ctl.engine = (if s.ctl.engine = .running then .suspended else s.ctl.engine) ∧
    (suspendReader c s).ctl.events = s.ctl.events ||| eventMask .readerSuspended := by
  unfold suspendReader
  dsimp only
  refine ⟨?_, ?_, ?_, ?_⟩
  · refine Reads.trans ?_ (raise_reads _ _)
    have h : Reads s (s.withReader { s.reader with cond := c, work := .idle }) := .withReader _ _ rfl
    exact .ite (fun _ => h.trans { Reads.refl _ with kept := ⟨rfl, rfl, rfl⟩, irq := id }) fun _ => h
  · rw [raise_reader]; split <;> rfl
  · rw [raise_engine, State.withReader_ctl]; split <;> rfl
  · rw [raise_events, State.withReader_ctl]; split <;> rfl

/-- A header read begins (R25). -/
theorem readHeader_spec (s : State) :
    Reads s (readHeader s) ∧ (readHeader s).ctl = s.ctl ∧
    (readHeader s).reader = { s.reader with cond := .reading, work := .headerRead s.port.nextXfer } := by
  unfold readHeader
  exact ⟨(Reads.withReader _ _ (by rfl)).trans (startTransfer_reads _ _ _ _), by simp, by simp⟩

/-- A read of the NEXT field begins (R27). -/
theorem readNext_spec (s : State) :
    Reads s (readNext s) ∧ (readNext s).ctl = s.ctl ∧
    (readNext s).reader = { s.reader with cond := .reading, work := .nextRead s.port.nextXfer } := by
  unfold readNext
  exact ⟨(Reads.withReader _ _ (by rfl)).trans (startTransfer_reads _ _ _ _), by simp, by simp⟩

/-- Following NEXT (R27): the address moves or stays, no record is in hand afterwards, and a suspension is the
only change of the engine state. -/
theorem followNext_spec (next : Addr) (s : State) :
    Reads s (followNext next s) ∧
    ((followNext next s).reader.addr = s.reader.addr ∨ (followNext next s).reader.addr = next) ∧
    (followNext next s).reader.work.next = none ∧
    ((followNext next s).ctl.engine = s.ctl.engine ∨
      (s.ctl.engine = .running ∧ (followNext next s).ctl.engine = .suspended ∧
        (followNext next s).reader.work = .idle ∧ (followNext next s).reader.cond = .suspendedEnd)) := by
  have h0 : Reads s (setWork .idle s) := .withReader _ _ rfl
  have key : ∀ e, s.ctl.engine = e → (e = .running ∨ e = .suspended) →
      let r := if next ≠ 0 then readHeader ((setWork .idle s).withReader { (setWork .idle s).reader with addr := next })
        else if s.reader.pokePending then
          readNext ((setWork .idle s).withReader { (setWork .idle s).reader with pokePending := false })
        else suspendReader .suspendedEnd (setWork .idle s)
      Reads s r ∧ (r.reader.addr = s.reader.addr ∨ r.reader.addr = next) ∧ r.reader.work.next = none ∧
      (r.ctl.engine = s.ctl.engine ∨ (s.ctl.engine = .running ∧ r.ctl.engine = .suspended ∧
        r.reader.work = .idle ∧ r.reader.cond = .suspendedEnd)) := by
    intro e he hor
    dsimp only
    split
    · obtain ⟨a, b, c⟩ := readHeader_spec ((setWork .idle s).withReader { (setWork .idle s).reader with addr := next })
      rw [b, c]
      exact ⟨h0.trans ((Reads.withReader _ _ (by rfl)).trans a), .inr rfl, rfl, .inl rfl⟩
    · split
      · obtain ⟨a, b, c⟩ :=
          readNext_spec ((setWork .idle s).withReader { (setWork .idle s).reader with pokePending := false })
        rw [b, c]
        exact ⟨h0.trans ((Reads.withReader _ _ (by rfl)).trans a), .inl rfl, rfl, .inl rfl⟩
      · obtain ⟨a, b, c, _⟩ := suspendReader_spec .suspendedEnd (setWork .idle s)
        rw [b, c]
        refine ⟨h0.trans a, .inl rfl, rfl, ?_⟩
        have e2 : (setWork .idle s).ctl = s.ctl := rfl
        rw [e2]
        rcases hor with h | h
        · exact .inr ⟨he.trans h, by rw [he, h]; rfl, rfl, rfl⟩
        · exact .inl (by rw [he, h]; rfl)
  unfold followNext
  dsimp only
  split
  · next h => exact key _ h (.inl rfl)
  · next h => exact key _ h (.inr rfl)
  · split
    · exact ⟨h0.trans (.withReader _ _ rfl), .inr rfl, rfl, .inl rfl⟩
    · exact ⟨h0, .inl rfl, rfl, .inl rfl⟩
  all_goals exact ⟨h0, .inl rfl, rfl, .inl rfl⟩

end Sys2Proof.Machine
end

