-- ==== Sys2Proof/Laws/Aborts.lean ====
section
/-! SUPPORT. What the edits' application and the first work of ABORT can do, said once (chapters 2, 5, 6 and 9). -/

namespace Sys2Proof.Machine

/-! ## Edits (R90, R94, R98) -/

/-- An edit's application: its head's map is replaced, and then only the flushes' work goes on. -/
theorem applyRecord_spec (e : EditRecord) (s : State) :
    ∃ m, Runs (s.setMap e.head m) (applyRecord e s).1 ∧
      (e.immediate = true →
        m.sets = (immediateSets (nozzleLimit s.layout e.head) e (s.map e.head)).1.sets) ∧
      (e.immediate = false → m = stagedMap s e) := by
  unfold applyRecord applyImmediate applyStaged
  dsimp only
  split
  · next h =>
    dsimp only
    split
    · exact ⟨_, .foldl _ (fun s c => flush_runs c s) _ _, fun _ => rfl, fun k => by simp [h] at k⟩
    · exact ⟨_, .refl _, fun _ => rfl, fun k => by simp [h] at k⟩
  · next h => exact ⟨_, .refl _, fun k => absurd k h, fun _ => rfl⟩

/-- The reader's address and the rest of the reader but its work stand while an edit is applied; the engine goes
on, or a flush halts it (R94, R150). -/
theorem applyRecord_frame (e : EditRecord) (s : State) :
    (applyRecord e s).1.reader = { s.reader with work := (applyRecord e s).1.reader.work } ∧
    ((applyRecord e s).1.ctl.engine = s.ctl.engine ∨ (applyRecord e s).1.ctl.engine = .halted) := by
  obtain ⟨m, h, -⟩ := applyRecord_spec e s
  exact ⟨h.reader, h.engine⟩

/-! ## What ABORT does first (R35, R185) -/

/-- With no edit that completes, ABORT begins at once. -/
theorem completeEdit_eq_self (s : State) (h : ∀ e n, s.reader.work = .editing e n → editWaits s e = true) :
    completeEdit s = s := by
  unfold completeEdit
  split
  · next e n k => simp [h e n k]
  all_goals rfl

/-- An edit that waits on no hold is applied and closed: the reader stays on its record with nothing in hand, and
the engine goes on, or a flush halts it. -/
theorem completeEdit_spec (s : State) (e : EditRecord) (n : Addr) (h : s.reader.work = .editing e n)
    (k : editWaits s e = false) :
    completeEdit s = setWork .idle (closeEdit e (applyRecord e s)) ∧
    (completeEdit s).reader = { s.reader with work := .idle } ∧
    ((completeEdit s).ctl.engine = s.ctl.engine ∨ (completeEdit s).ctl.engine = .halted) := by
  have q : completeEdit s = setWork .idle (closeEdit e (applyRecord e s)) := by simp [completeEdit, h, k]
  obtain ⟨a, b⟩ := applyRecord_frame e s
  refine ⟨q, ?_, ?_⟩
  · rw [q, setWork, State.withReader_reader, closeEdit, handOver_reader, a]
  · rw [q]; simpa [setWork, closeEdit] using b

/-! ## The parks of ABORT (R124, R173) -/

/-- A flush that finds its channel empty and FROZEN discards its fetches and resets its compose place alone
(R124, R126, R146). -/
theorem flush_empty (c : ChanId) (s : State) (hf : frozen s = true) (hs : (s.chan c).slot = .empty)
    (hq : (s.chan c).queue = []) (hr : (s.chan c).shipRequest = false) :
    flush c s = adjustCompose c ((s.withPort (dropFetches c s.port)).setChan c
      { s.chan c with live := none, compose := (s.chan c).next }) := by
  have e1 : withdrawRequest c (withdrawTransit c s) = s := by simp [withdrawTransit, withdrawRequest, hs, hr]
  have e2 : ∀ x, frozen (adjustCompose c ((dropLive c s).setChan c x)) = true := by
    intro x
    have : (adjustCompose c ((dropLive c s).setChan c x)).ctl = s.ctl := by
      unfold adjustCompose; split
      · split <;> rfl
      · rfl
    unfold frozen at hf ⊢
    rw [this]; exact hf
  unfold flush
  dsimp only
  rw [e1, e2]
  replace hs : s.chans[c.val].slot = .empty := hs
  replace hq : s.chans[c.val].queue = [] := hq
  simp [flushPlace, hs, dropLive, flushedQueue, flushedSlot, hq, State.setChan, State.chan, State.withChans, State.withPort]

/-- The parks of ABORT are the work of channels and an event (R173). -/
theorem abortParks_runs (hs : List HeadId) (s : State) : Runs s (abortParks hs s) := by
  unfold abortParks
  exact .ite (fun _ => .refl s) fun _ => (Runs.foldl _ (fun s c => flush_runs c s) _ _).trans (raise_runs _ _)

end Sys2Proof.Machine
end

