-- ==== Sys2Proof/Laws/Pages.lean ====
section
/-! SUPPORT. What binding a page, removing page records and closing the head band can do (chapter 3). -/

namespace Sys2Proof.Machine

/-- A page's place in the order of pages: what no binding changes. -/
def Page.place (p : Page) : Nat × Option Nat × Nat := (p.id, p.pred, p.firstBand)

/-- From `s` to `t` pages have bound: page records, band marks, sequences and returning heads have changed, and
nothing else. -/
structure Binds (s t : State) : Prop where
  pending : t.pending = s.pending
  tick : t.tick = s.tick
  posn : t.posn = s.posn
  reader : t.reader = s.reader
  layout : t.layout = s.layout
  maps : t.maps = s.maps
  port : t.port = s.port
  ctl : t.ctl = s.ctl
  win : t.win = { s.win with bands := t.win.bands, pages := t.win.pages }
  bands : t.win.bands.map BandEntry.id = s.win.bands.map BandEntry.id
  places : (t.win.pages.map Page.place).Sublist (s.win.pages.map Page.place)
  counts : (∀ b ∈ s.win.bands, b.CountLaw s.layout) → ∀ b ∈ t.win.bands, b.CountLaw t.layout
  queues : LineQueueLaw s → LineQueueLaw t
  service : ServiceLaw s → ServiceLaw t

theorem Binds.refl (s : State) : Binds s s := 
  ⟨rfl, rfl, rfl, rfl, rfl, rfl, rfl, rfl, rfl, rfl, .refl _, id, id, id⟩

theorem Binds.trans {s t u : State} (h : Binds s t) (k : Binds t u) : Binds s u where
  pending := k.pending.trans h.pending
  tick := k.tick.trans h.tick
  posn := k.posn.trans h.posn
  reader := k.reader.trans h.reader
  layout := k.layout.trans h.layout
  maps := k.maps.trans h.maps
  port := k.port.trans h.port
  ctl := k.ctl.trans h.ctl
  win := by rw [k.win, h.win]
  bands := k.bands.trans h.bands
  places := k.places.trans h.places
  counts x := k.counts (h.counts x)
  queues x := k.queues (h.queues x)
  service x := k.service (h.service x)

theorem Binds.foldl {α : Type} (f : State → α → State) (hf : ∀ s a, Binds s (f s a)) (l : List α) (s : State) :
    Binds s (l.foldl f s) := by
  induction l generalizing s with
  | nil => exact .refl s
  | cons a l ih => exact (hf s a).trans (ih _)

/-- A band's marks changed, its place and counts kept. -/
theorem Binds.bands_map (s : State) (f : BandEntry → BandEntry) (hid : ∀ b, (f b).id = b.id)
    (hc : ∀ b l, b.CountLaw l → (f b).CountLaw l) :
    Binds s (s.withWin { s.win with bands := s.win.bands.map f }) :=
  { Binds.refl s with
    win := rfl
    bands := by
      simp only [State.withWin_win, List.map_map]
      exact List.map_congr_left fun b _ => hid b
    counts := fun h b hb => by
      simp only [State.withWin_win, List.mem_map] at hb
      obtain ⟨b', hb', rfl⟩ := hb
      exact hc b' _ (h b' hb') }

theorem mapPage_binds (id : Nat) (f : Page → Page) (hf : ∀ p, (f p).place = p.place) (s : State) :
    Binds s (mapPage id f s) :=
  { Binds.refl s with
    win := rfl
    places := by
      unfold mapPage
      simp only [State.withWin_win, List.map_map]
      rw [List.map_congr_left fun p _ => show (Page.place ∘ _) p = Page.place p by
        simp only [Function.comp]; split <;> simp [hf]] }

theorem removePages_binds (s : State) : Binds s (removePages s) :=
  { Binds.refl s with win := rfl, places := List.Sublist.map _ List.filter_sublist }

/-- Channels changed within the law of their queues. -/
theorem Binds.chans (s : State) (f : ChanId → Channel) (hf : ∀ c, (s.chan c).QueueLaw → (f c).QueueLaw) :
    Binds s (s.withChans (tabulate 32 f)) :=
  { Binds.refl s with
    queues := fun h c => by
      rw [State.withChans_chan, getElem_tabulate]
      exact hf c (h c) }

theorem withdrawLate_binds (page : Nat) (s : State) : Binds s (withdrawLate page s) := by
  unfold withdrawLate
  refine (Binds.bands_map s _ (fun b => ?_) fun b l k => ?_).trans (.chans _ _ fun c h => h)
  · split <;> rfl
  · split
    · exact ⟨k.1, by simp, by simp⟩
    · exact k

theorem adjustCompose_binds (c : ChanId) (s : State) : Binds s (adjustCompose c s) := by
  unfold adjustCompose
  repeat' split
  all_goals first
    | exact .refl s
    | exact { Binds.refl s with queues := fun h => h.setChan (h c) }

theorem returnHead_binds (band : Nat) (h : HeadId) (s : State) : Binds s (returnHead band h s) := by
  have r := returnHead_runs band h s
  unfold returnHead at r ⊢
  dsimp only at r ⊢
  split
  · next hp =>
    rw [if_pos hp] at r
    refine Binds.trans ?_ (.foldl _ (fun s c => adjustCompose_binds c s) _ _)
    unfold beginConfiguration addRequest
    dsimp only
    refine { Binds.refl s with service := fun x d => ?_ }
    simp only [State.setHead_head, if_true]
    split
    · next e =>
      exact { timer := by simp, config := by simp, ready := by simp, band := by simp }
    · exact x d
  · exact .refl s

theorem returnHeads_binds (band : Nat) (s : State) : Binds s (returnHeads band s) :=
  .foldl _ (fun s h => returnHead_binds band h s) _ s

theorem mapBand_binds (id : Nat) (f : BandEntry → BandEntry) (hid : ∀ b, (f b).id = b.id)
    (hc : ∀ b l, b.CountLaw l → (f b).CountLaw l) (s : State) : Binds s (mapBand id f s) :=
  Binds.bands_map s _ (fun b => by split <;> simp [hid]) fun b l k => by
    split
    · exact hc b l k
    · exact k

theorem bindPage_binds (p : Page) (a : Nat) (s : State) : Binds s (bindPage p a s) := by
  unfold bindPage
  dsimp only
  refine Binds.trans ?_ (returnHeads_binds _ _)
  generalize bindResult s p a = r
  have h := (mapPage_binds p.id (fun q => { q with binding := r.binding }) (fun _ => rfl) s).trans
    (mapBand_binds p.firstBand
      (fun b => { b with overlap := b.overlap || r.overlap, slipped := b.slipped || r.slipped })
      (fun _ => rfl) (fun _ _ k => k) _)
  split
  · exact h.trans (withdrawLate_binds _ _)
  · exact h
  · exact h
  · exact h

theorem bindRun_binds (n : Nat) (p : Page) (a : Nat) (s : State) : Binds s (bindRun n p a s) := by
  induction n generalizing p a s with
  | zero => exact .refl s
  | succ n ih =>
    unfold bindRun
    have h := bindPage_binds p a s
    split
    · exact h.trans (ih _ _ _)
    · exact h

/-- A binding and the run of FOLLOWING pages behind it (R51, R54). -/
theorem bindFrom_binds (p : Page) (a : Nat) (s : State) : Binds s (bindFrom p a s) := bindRun_binds _ _ _ _

/-! ## Laws that a binding keeps -/

section
variable {s t : State}

theorem Binds.bands_length (h : Binds s t) : t.win.bands.length = s.win.bands.length := by
  have := congrArg List.length h.bands
  simpa using this

theorem Binds.unbound (h : Binds s t) : t.win.unbound = s.win.unbound := by rw [h.win]

theorem Binds.productQueueLaw (h : Binds s t) (l : ProductQueueLaw s) : ProductQueueLaw t := by
  unfold ProductQueueLaw at *
  rw [h.posn, h.unbound]
  exact l

theorem Binds.windowLaw (h : Binds s t) (l : WindowLaw s) : WindowLaw t := by
  refine ⟨by rw [h.bands_length]; exact l.1, fun e => ?_⟩
  have hl := h.bands_length
  rw [l.2 (h.ctl ▸ e)] at hl
  exact List.eq_nil_of_length_eq_zero hl

theorem Binds.numberingLaw (h : Binds s t) (l : NumberingLaw s) : NumberingLaw t where
  bands := by
    have k := (List.pairwise_map (f := BandEntry.id) (R := (· < ·))).2 l.bands
    rw [← h.bands] at k
    exact (List.pairwise_map (f := BandEntry.id) (R := (· < ·))).1 k
  nextBand b m := by
    obtain ⟨c, d, e⟩ := List.mem_map.1 (h.bands ▸ List.mem_map_of_mem (f := BandEntry.id) m)
    rw [h.win, ← e]
    exact l.nextBand c d
  pages := by
    have k := (List.pairwise_map (f := Page.place) (R := fun a b => a.1 < b.1)).2 l.pages
    exact (List.pairwise_map (f := Page.place) (R := fun a b => a.1 < b.1)).1 (k.sublist h.places)
  nextPage p m := by
    obtain ⟨q, d, e⟩ := List.mem_map.1 (h.places.subset (List.mem_map_of_mem (f := Page.place) m))
    rw [h.win, show p.id = q.id from (congrArg Prod.fst e).symm]
    exact l.nextPage q d

theorem Binds.pageOrderLaw (h : Binds s t) (l : PageOrderLaw s) : PageOrderLaw t where
  openPage := by rw [h.win]; exact l.openPage
  prevPage := by rw [h.win]; exact l.prevPage
  pred p m n k := by
    obtain ⟨q, d, e⟩ := List.mem_map.1 (h.places.subset (List.mem_map_of_mem (f := Page.place) m))
    rw [show p.id = q.id from (congrArg Prod.fst e).symm]
    exact l.pred q d n ((congrArg (fun x => x.2.1) e).trans k)
  firstBand p m := by
    obtain ⟨q, d, e⟩ := List.mem_map.1 (h.places.subset (List.mem_map_of_mem (f := Page.place) m))
    rw [h.win, show p.firstBand = q.firstBand from (congrArg (fun x => x.2.2) e).symm]
    exact l.firstBand q d

theorem Binds.bandCountLaw (h : Binds s t) (l : BandCountLaw s) : BandCountLaw t := by
  refine ⟨h.counts l.1, fun x r n e => ?_⟩
  have hl := h.bands_length
  rw [l.2 x r n (h.reader ▸ e)] at hl
  exact List.eq_nil_of_length_eq_zero hl

end

/-! ## The head band leaves (R59) -/

/-- The head band leaves the window: what its leaving changes (R59, R91, R96, R167). -/
theorem removeHeadBand_spec (b : BandEntry) (s : State) :
    let t := removeHeadBand b s
    t.pending = s.pending ∧ t.tick = s.tick ∧ t.posn = s.posn ∧ t.reader = s.reader ∧ t.layout = s.layout ∧
    t.port = s.port ∧ t.ctl = s.ctl ∧ t.win = { s.win with bands := s.win.bands.tail, pages := t.win.pages } ∧
    (∀ h, (t.map h).active = (s.map h).active ∧
      (t.map h).staged = (s.map h).staged.map fun st => { st with waiting := st.waiting - 1 }) ∧
    (∀ c, (t.chan c).queue = (s.chan c).queue ∧ (t.chan c).live = (s.chan c).live) ∧
    (∀ h, t.head h = giveUpReturn b.id (s.head h)) := by
  unfold removeHeadBand removePages releasePins
  dsimp only
  refine ⟨rfl, rfl, rfl, rfl, rfl, rfl, rfl, rfl, fun h => ?_, fun c => ?_, fun h => ?_⟩
  · simp only [State.withWin_map, State.withMaps_map, getElem_tabulate, releasedMap, State.withHeads_map,
      State.withChans_map, closeCounted]
    split <;> exact ⟨rfl, rfl⟩
  · simp only [State.withWin_chan, State.withMaps_chan, State.withHeads_chan, State.withChans_chan, getElem_tabulate,
      and_self]
  · simp only [State.withWin_head, State.withMaps_head, State.withHeads_head, State.withChans_head, getElem_tabulate]

theorem giveUpReturn_law (band : Nat) (d : HeadLink) (h : d.ServiceLaw) : (giveUpReturn band d).ServiceLaw := by
  unfold giveUpReturn
  split
  · exact { timer := h.timer, config := h.config, ready := h.ready, band := by simp }
  · exact h

end Sys2Proof.Machine
end

