-- ==== Sys2Proof/Laws/Returns.lean ====
section
/-! SUPPORT. What the return lane and a failed unit's report can do (chapters 2, 8 and 10). -/

namespace Sys2Proof.Machine

/-! ## The return lane (R157, R197) -/

/-- The lane is high exactly where a bit of what was sent is 1. -/
theorem laneHigh_iff (lane : List LaneReturn) (t : Nat) :
    laneHigh lane t = true ↔ ∃ x ∈ lane, x.bit0 ≤ t ∧ x.byte.getLsbD (t - x.bit0) = true := by
  simp [laneHigh]

/-- The lane goes high at a tick exactly when it is high there and low at the tick before. -/
theorem laneRises_iff (lane : List LaneReturn) (t : Nat) :
    laneRises lane t = true ↔ laneHigh lane t = true ∧ ∀ u, u + 1 = t → laneHigh lane u = false := by
  cases t with
  | zero => simp [laneRises]
  | succ t => simp [laneRises]

/-- The byte's bits are the levels of its eight ticks. -/
theorem laneByte_getLsbD (lane : List LaneReturn) (t i : Nat) (h : i < 8) :
    (laneByte lane t).getLsbD i = laneHigh lane (t + i) := by
  rw [laneByte, BitVec.getLsbD_setWidth, BitVec.getLsbD_ofBoolListLE]
  simp [h]

/-- `ackBegins` answers the tick at which the acknowledgement begins, and no other. -/
theorem ackBegins_iff (lane : List LaneReturn) (since t : Nat) :
    ackBegins lane since = some t ↔ BeginsAck lane since t := by
  simp only [ackBegins, List.find?_map, Option.map_eq_some_iff, List.find?_range_eq_some, List.mem_range,
    Function.comp, laneRises_iff, Bool.not_eq_true', Bool.eq_false_iff, ne_eq]
  constructor
  · rintro ⟨k, ⟨⟨high, low⟩, lt, first⟩, rfl⟩
    refine ⟨high, fun u e => by simpa using low u e, Nat.le_add_right .., fun u ge lt' hu => ?_, ?_⟩
    · by_contra none
      refine first (u - since) (by omega) ?_
      rw [Nat.add_sub_cancel' ge]
      exact ⟨hu, fun v e => by simpa using fun hv => none ⟨v, e, hv⟩⟩
    · simp only [Config.answerWindow, Config.ackTicks] at lt ⊢
      omega
  · intro b
    have ge := b.begins
    have le := b.received
    refine ⟨t - since, ⟨?_, ?_, fun j lt rises => ?_⟩, by omega⟩
    · rw [Nat.add_sub_cancel' ge]
      exact ⟨b.high, fun u e => by simpa using b.low u e⟩
    · simp only [Config.answerWindow, Config.ackTicks] at le ⊢
      omega
    · obtain ⟨v, e, hv⟩ := b.first (since + j) (by omega) (by omega) rises.1
      exact absurd hv (rises.2 v e)

/-- An acknowledgement in time is one whose last bit comes before the window's 200th tick. -/
theorem ackInTime_iff (lane : List LaneReturn) (since : Nat) :
    ackInTime lane since = true ↔
      ∃ t, BeginsAck lane since t ∧ t + Config.ackTicks < since + Config.answerWindow := by
  simp only [← ackBegins_iff, ackInTime]
  split <;> simp_all

/-- What a head sends is received exactly when it makes an awaited acknowledgement whole, and else adds to its lane
alone. -/
theorem execAckReceived_spec (h : HeadId) (ack : LaneReturn) (s : State) :
    let s1 := s.setHead h { s.head h with lane := (s.head h).lane ++ [ack] }
    (∃ since t b, (s.head h).link = .answerWait since ∧ Answers s h since ack t b ∧
      execAckReceived h ack s = .next (receiveAck h t s1)) ∨
    ((∀ since t b, (s.head h).link = .answerWait since → ¬Answers s h since ack t b) ∧
      execAckReceived h ack s = .next s1) := by
  dsimp only
  unfold execAckReceived
  dsimp only
  generalize s.setHead h { s.head h with lane := (s.head h).lane ++ [ack] } = s1
  cases link : (s.head h).link with
  | answerWait since =>
    dsimp only
    cases found : ackBegins ((s.head h).lane ++ [ack]) since with
    | none =>
      refine .inr ⟨fun x t b e a => ?_, rfl⟩
      cases e
      rw [(ackBegins_iff ..).2 a.begins] at found
      cases found
    | some t =>
      dsimp only
      split
      · next whole =>
        exact .inl ⟨since, t, laneByte ((s.head h).lane ++ [ack]) t, rfl,
          ⟨(ackBegins_iff ..).1 found, whole, fun i lt => laneByte_getLsbD _ _ _ lt⟩, rfl⟩
      · next whole =>
        refine .inr ⟨fun x u b e a => whole ?_, rfl⟩
        cases e
        rw [(ackBegins_iff ..).2 a.begins] at found
        cases found
        exact a.whole
  | idle => exact .inr ⟨nofun, rfl⟩
  | sending e => exact .inr ⟨nofun, rfl⟩
  | resetting e => exact .inr ⟨nofun, rfl⟩

/-! ## The report of a failed unit (R38, R41) -/

/-- The writes stand at the unit's place, and the other failed units keep theirs in the order of what was posted. -/
theorem postAt_spec (place : Nat) (ws : List (Addr × Word32)) (p : MemoryPort) :
    let posts := postedWrites ws
    postAt place ws p = { p with
      outbox := p.outbox.take place ++ posts ++ p.outbox.drop place
      failed := p.failed.map fun f => { f with place := f.place + posts.length } } := rfl

theorem postAt_outbox_length (place : Nat) (ws : List (Addr × Word32)) (p : MemoryPort) :
    (postAt place ws p).outbox.length = p.outbox.length + (postedWrites ws).length := by
  simp only [postAt, List.length_append, List.length_take, List.length_drop]
  omega

end Sys2Proof.Machine
end

