-- ==== Sys2Proof/Tests/Slice0.lean ====
section
/-! SUPPORT. The model's own tests: the refused ill-formed terms, the spec's worked examples, and for every
statement with premises a state that meets them (`test_witness_…`). Expected values come from the tables and
examples of spec/, named at each test. -/

namespace Sys2Proof.Tests
open Sys2Proof Sys2Proof.Machine

-- one kernel evaluation at a time: many at once ask for more memory than the check allows
set_option Elab.async false

/-! ## WellFormed refuses an ill-formed term of each kind -/

theorem test_illformed_known_code : (Instr.unknownCommandCode 3 15).wellFormed = false := by decide
theorem test_illformed_register_write : (Instr.registerWrite 0x1D 1 2).wellFormed = false := by decide
theorem test_illformed_error_with_data : (Instr.readCompletion 0 false [1]).wellFormed = false := by decide
theorem test_illformed_long_completion :
    (Instr.readCompletion 0 true (List.replicate 257 0)).wellFormed = false := by decide +kernel
theorem test_illformed_ack_without_bit0 : (Instr.ackReceived 0 ⟨80, 2⟩).wellFormed = false := by decide
theorem test_wellformed_terms :
    (Instr.unknownCommandCode 6 15).wellFormed = true ∧ (Instr.registerWrite 0x24 1 15).wellFormed = true ∧
    (Instr.readCompletion 0 false []).wellFormed = true ∧ (Instr.ackReceived 0 ⟨80, 1⟩).wellFormed = true := by decide

/-! ## A small press: one plane, two heads of 256 nozzles that share three columns (example of chapter 6) -/

/-- A head entry of 256 nozzles on plane 0; row B lies one line behind row A. -/
def entry (first : Nat) : HeadEntry :=
  { plane := 0, inService := true, lanes := 4, waveform := 5, firstColumn := first, nozzles := 256, period := 500,
    headOffset := 256, rowOffset := 256, trim := 10, level1 := 1, level2 := 3, level3 := 6 }

def layout (halts : Bool) : Layout :=
  { increment := 2013266, invert := false, haltPolicy := halts, falling := false, lockout := 300,
    widths := #v[509, 0, 0, 0, 0, 0, 0, 0], tile := Vector.replicate 256 100
    heads := ((Vector.replicate 16 none).set 0 (some (entry 0))).set 1 (some (entry 253)) }

/-- A head in service on an idle link. -/
def served : HeadLink := { HeadLink.reset with service := .inService, link := .idle }

/-- The press with the layout applied, both heads in service, the engine in `e`, P at 6201 + 1,275,848/2^24. -/
def press (e : EngineState) (halts : Bool) : State :=
  { State.reset with
    layout := some (layout halts)
    heads := ((Vector.replicate 16 HeadLink.reset).set 0 served).set 1 served
    posn := { State.reset.posn with pos := { line := 6201, frac := 1275848 } }
    ctl := { State.reset.ctl with engine := e } }

/-- A band of two lines at 0x1000 in page 0. -/
def bandEntry : BandEntry :=
  { id := 0, addr := 0x1000, lines := 2, mask := 1
    sources := [{ plane := 0, base := 0x10000000, stride := 1600, first := 100, tile := 0 }]
    pageStart := true, pageEnd := false, continuous := false, notify := true, offset := 16384, page := 0, firstLine := 0,
    outstanding := 8, fired := 0, starved := 0, dropped := 0, skipped := 0, dataFaults := 0, lost := 0,
    parkedSeen := false, late := false, slipped := false, overlap := false }

def page (b : PageBinding) : Page :=
  { id := 0, continuous := false, binding := b, count := 2, ended := false, firstBand := 0, pred := none }

/-- The press with that band open in page 0, the four channels at its first line. -/
def printing (e : EngineState) (b : PageBinding) : State :=
  { press e false with
    win := { Window.reset with bands := [bandEntry], pages := [page b], openPage := some 0, firstPage := false,
                               unbound := (if b = .unbound then [0] else []), nextBand := 1, nextPage := 1 }
    chans := Vector.ofFn fun c =>
      if c.val < 4 then { Channel.reset with next := some ⟨0, 0⟩, compose := some ⟨0, 0⟩ } else Channel.reset }

/-- An anchor far ahead of the web. -/
def ahead : PageBinding := .bound 2000000

def line0 : ComposedLine := { ref := ⟨0, 0⟩, pageLine := 0, levels := List.replicate 128 1, dataFault := false, lost := 2 }

/-- Its LINE frame on head 0, sent from tick 0 on. -/
def lineFrame (again : Bool) : Frame :=
  { body := .line .a ⟨0, 0⟩ line0.levels, lanes := 4, begun := 0, withdrawn := false, again := again, forConfig := false, stale := false }

/-- The state with channel 0 changed. -/
def withChan0 (f : Channel → Channel) (s : State) : State := s.setChan 0 (f (s.chan 0))
/-- The state with head 0 changed. -/
def withHead0 (f : HeadLink → HeadLink) (s : State) : State := s.setHead 0 (f (s.head 0))
/-- The state with the reader's work replaced, at address 0x2000. -/
def withWork (w : ReaderWork) (s : State) : State := s.withReader { s.reader with addr := 0x2000, work := w }
/-- The state with one transfer, numbered 0, that holds `bs` or has failed. -/
def withTransfer (f : Option (ChanId × LineRef)) (failed : Bool) (bs : List Byte) (s : State) : State :=
  s.withPort { s.port with
    transfers := [{ id := 0, fetch := f, todo := [], nextIndex := 1, inFlight := 0, chunks := [(0, bs)], failed := failed }]
    nextXfer := 1 }

/-- A field of the next state; `dflt` when the command does not answer one. -/
def after {α : Type} (c : Instr) (s : State) (dflt : α) (f : State → α) : α :=
  match exec c s with
  | .next t => f t
  | .fault _ => dflt
  | .refused _ => dflt

/-! ## Worked examples of spec/ -/

/-- Chapter 1, first example: count 4 carries a line. -/
theorem test_forward_count_carries :
    posForward 2013266 { line := 6200, frac := 16039798 } = { line := 6201, frac := 1275848 } := by decide
/-- Chapter 1: a backward count after count 10. -/
theorem test_backward_count : posBackward 2013266 { line := 6201, frac := 13355444 } = { line := 6201, frac := 11342178 } := by decide
theorem test_saturation : posForward 16777216 { line := 0xFFFFFFFF, frac := 5 } = { line := 0xFFFFFFFF, frac := 0xFFFFFF } ∧
    posBackward 2013266 { line := 0, frac := 5 } = { line := 0, frac := 0 } := by decide
/-- R2's table. -/
theorem test_quadrature_table :
    tableForward (false, false) = (true, false) ∧ tableForward (true, false) = (true, true) ∧
    tableForward (true, true) = (false, true) ∧ tableForward (false, true) = (false, false) ∧
    tableBackward (false, false) = (false, true) ∧ tableBackward (true, false) = (false, false) ∧
    tableBackward (true, true) = (true, false) ∧ tableBackward (false, true) = (true, true) := by decide
/-- Chapter 1, second example: the capture, and the lockout 300 lines on. -/
theorem test_capture :
    after .productEdge (press .running false) [] (fun t => t.posn.productQueue) = [1587475#40] ∧
    captureOf { line := 6501, frac := 19 * 65536 } = 1664275#40 := by decide +kernel
/-- Chapter 1, second example: page 0 unbound takes the capture plus OFFSET 16,384 at once. -/
theorem test_edge_binds :
    after .productEdge (printing .running .unbound) [] (fun t => t.win.pages.map Page.binding) = [.bound 1603859] := by
  decide +kernel
/-- Chapter 6: the fetch of band line 43 at columns 2,000 to 4,047, its tile variant, and its three requests. -/
theorem test_fetch_address :
    fetchAddr { plane := 0, base := 0x10000000, stride := 1600, first := 100, tile := 0 } 43 2000 = 0x10037FB4 ∧
    fetchAddr { plane := 0, base := 0x10000000, stride := 1600, first := 100, tile := 120 } 43 2000 = 0x100091B4 ∧
    fetchLen 2000 2048 = 512 ∧ fetchLen 3990 2048 = 513 ∧
    cutRead 513 0x10037FB4 512 = [(0x10037FB4, 76), (0x10038000, 256), (0x10038100, 180)] := by decide +kernel
/-- Chapter 6: the seam's thresholds, and compensation's worked table and tie. -/
theorem test_seam_and_compensation :
    seamThreshold 3 0 = 192 ∧ seamThreshold 3 1 = 128 ∧ seamThreshold 3 2 = 64 ∧
    composeLevels [0, 0, 0, 0, 2, 3, 1, 1] [false, false, false, false, true, true, true, true] [5, 6] =
      { levels := [0, 0, 0, 0, 3, 0, 0, 2], lostA := 0, lostB := 2 } ∧
    composeLevels [1, 2, 1] [true, true, true] [1] = { levels := [3, 0, 1], lostA := 0, lostB := 0 } := by decide
/-- Chapter 6: on a column with tile value 200 and θ 192 the right head owns; R118 rescues a dead owner's column. -/
theorem test_seam_owner :
    leftOwns (Vector.replicate 256 200) 5 (entry 0) (entry 253) 253 = false ∧
    leftOwns (Vector.replicate 256 100) 5 (entry 0) (entry 253) 254 = true ∧
    ownsSeam (Vector.replicate 256 100) 5 ⟨entry 0, [254], true⟩ ⟨entry 253, [], true⟩ true 254 = false ∧
    ownsSeam (Vector.replicate 256 200) 5 ⟨entry 0, [], true⟩ ⟨entry 253, [], false⟩ true 253 = true := by decide
/-- Chapter 8: the CONFIG entries' CHECK bytes and the frame's 88 bits, 22 ticks on 4 lanes. -/
theorem test_config_frame :
    entryCheck (0x01, 0x05) = 0x5E ∧ entryCheck (0x02, 0x0A) = 0x52 ∧ entryCheck (0x05, 0x06) = 0x59 ∧
    frameTicks (.config [(0x01, 0x05), (0x02, 0x0A), (0x05, 0x06)]) 4 = 22 := by decide
/-- Chapter 10: RESULT of a band with starved lines. -/
theorem test_result_word :
    resultWord .done (bandFlags { bandEntry with fired := 1597, starved := 3 }) 0 = 0x00008801 := by decide
/-- Chapter 11: 0x00060404 is HALTED, STARVED, SUSPENDED_END. -/
theorem test_status_word :
    statusWord { State.reset with
      ctl := { State.reset.ctl with engine := .halted, cause := .starved }
      reader := { State.reset.reader with cond := .suspendedEnd } } = 0x00060404 := by decide
/-- R39: a header 8 bytes below a 4 KiB boundary; a block on one. -/
theorem test_cut_reads :
    cutRead 17 0xFF8 16 = [(0xFF8, 8), (0x1000, 8)] ∧
    (cutRead 833 0x4000 832).map Prod.snd = [256, 256, 256, 64] := by decide +kernel
/-- R41: a write across a 4 KiB boundary is posted as two, the lower address first. -/
theorem test_write_across_page :
    postedWrite 0xFFE 0x04030201 = [.write 0xFFE [1, 2], .write 0x1000 [3, 4]] := by decide
/-- R91, R92 of an edit on a head with no layout: ADD keeps order and drops index 4,096. -/
theorem test_edit_add :
    applyEdit .add 4096 [9, 4096, 3] [5] = { set := [3, 5, 9], ignored := true, capacity := false } := by decide

/-! ## Witnesses: for every statement with premises, a state and operands that meet them, clause by clause -/

theorem answersNext {c : Instr} {s : State} {f : State → Bool} (h : after c s false f = true) :
    ∃ t, exec c s = .next t ∧ f t = true := by
  unfold after at h; split at h <;> first | exact ⟨_, ‹_›, h⟩ | cases h

/-- A premise about what an optional value is, checked on the value. -/
theorem optional {α : Type} {o : Option α} {P : α → Prop} (h : ∀ x ∈ o.toList, P x) : ∀ x, o = some x → P x :=
  fun x e => h x (by simp [e])

/-- Page 0 bound so that the channels of row A reach their line 0 at the next count. -/
def atTarget (e : EngineState) : State := printing e (.bound 1587239)

/-- A suspended press at that place, with a capture queued and a STAGED set on head 0. -/
def rich : State :=
  { atTarget .suspended with
    pending := [.forwardCount]
    posn := { (atTarget .suspended).posn with productQueue := [1587475] }
    reader := { State.reset.reader with addr := 0x2000, cond := .suspendedOwner }
    maps := State.reset.maps.set 0 { active := [3], staged := some { set := [3, 5], waiting := 1 }, hold := none }
    chans := (atTarget .suspended).chans.set 5 { Channel.reset with live := some ⟨⟨0, 0⟩, 0⟩ } }

theorem test_witness_step : ∃ t, step rich = .next t ∧ t ≠ rich.withPending [] := by
  obtain ⟨t, h, e⟩ := answersNext (c := .forwardCount) (s := rich.withPending []) (f := fun t => decide (t ≠ rich.withPending []))
    (by decide +kernel)
  exact ⟨t, h, of_decide_eq_true e⟩
/-- The law of page order, checked on the values that are there. -/
theorem pageOrder {s : State} (o : ∀ x ∈ s.win.openPage.toList, x < s.win.nextPage)
    (v : ∀ x ∈ s.win.prevPage.toList, x < s.win.nextPage)
    (d : ∀ p ∈ s.win.pages, ∀ x ∈ p.pred.toList, x < p.id) (f : ∀ p ∈ s.win.pages, p.firstBand < s.win.nextBand) :
    PageOrderLaw s := ⟨optional o, optional v, fun p m => optional (d p m), f⟩
theorem test_witness_StepKeepsWindowAndInterrupt :
    ProductQueueLaw rich ∧ WindowLaw rich ∧ NumberingLaw rich ∧ PageOrderLaw rich ∧ InterruptLaw rich :=
  ⟨⟨by decide +kernel, by decide +kernel⟩, ⟨by decide +kernel, by decide +kernel⟩,
   ⟨by decide +kernel, by decide +kernel, by decide +kernel, by decide +kernel⟩,
   pageOrder (by decide +kernel) (by decide +kernel) (by decide +kernel) (by decide +kernel),
   by unfold InterruptLaw; decide +kernel⟩
theorem test_witness_StepKeepsLinesAndAccounts : LineQueueLaw rich ∧ BandCountLaw rich :=
  ⟨by unfold LineQueueLaw Channel.QueueLaw; decide +kernel, by unfold BandEntry.CountLaw; decide +kernel, nofun⟩
theorem test_witness_StepKeepsNozzleSets : NozzleSetLaw rich :=
  ⟨by unfold NozzleSet; decide +kernel, fun h => optional (by revert h; unfold NozzleSet; decide +kernel),
   fun h => optional (by revert h; decide +kernel), nofun⟩
theorem test_witness_StepKeepsReaderLaws : RecordAddressLaw rich ∧ SuspensionLaw rich ∧ rich.ctl.engine = .suspended :=
  ⟨⟨by unfold aligned; decide +kernel, by unfold aligned; decide +kernel, nofun⟩, by unfold SuspensionLaw; decide +kernel, rfl⟩
theorem test_witness_StepKeepsHeadServices : ServiceLaw rich :=
  fun h => ⟨by revert h; decide +kernel, by revert h; decide +kernel, by revert h; decide +kernel, by revert h; decide +kernel⟩

theorem test_witness_StepRunsFrontCommand :
    State.reset.pending = [] ∧ ownStep State.reset = none ∧
    ownStep { State.reset with tick := 100 } = some (.linkResetEnd 0) := by decide +kernel
theorem test_witness_OnlyTheirCommandsChange :
    (∃ t, exec .start State.reset = .next t) ∧ Instr.start.wellFormed = true ∧
    (∀ x y z, Instr.start ≠ .chipReset x y z) ∧ Instr.start ≠ .forwardCount ∧ Instr.start ≠ .backwardCount ∧
    Instr.start ≠ .layoutBlockReadComplete ∧ (∀ v b, Instr.start ≠ .eventEnableWrite v b) ∧
    (∀ h v b, Instr.start ≠ .listHeadWrite h v b) :=
  ⟨⟨_, rfl⟩, rfl, nofun, nofun, nofun, nofun, nofun, nofun⟩
theorem test_witness_HaltedIsLeftByAbortOrReset :
    (∃ t, exec .forwardCount (press .halted false) = .next t) ∧ Instr.forwardCount.wellFormed = true ∧
    (press .halted false).ctl.engine = .halted ∧ Instr.forwardCount ≠ .abort ∧ Instr.forwardCount ≠ .engineReset ∧
    ∀ x y z, Instr.forwardCount ≠ .chipReset x y z :=
  ⟨⟨_, rfl⟩, rfl, rfl, nofun, nofun, nofun⟩
theorem test_witness_ForwardCountMovesPosition :
    State.reset.layout = none ∧ (press .stopped false).layout = some (layout false) := ⟨rfl, rfl⟩
theorem test_witness_BackwardCountMovesPosition :
    State.reset.layout = none ∧ (press .stopped false).layout = some (layout false) := ⟨rfl, rfl⟩

/-- The target that channel `c` watches in `s` is crossed by one forward count. -/
def crossed (s : State) (c : ChanId) : Prop :=
  ∃ t, watched s c = some t ∧ reached s.posn.pos t = false ∧
    reached (posForward (layout false).increment s.posn.pos) t = true
theorem crossed_iff (s : State) (c : ChanId) : crossed s c ↔ ((watched s c).any fun t =>
    !reached s.posn.pos t && reached (posForward (layout false).increment s.posn.pos) t) = true := by
  unfold crossed; cases watched s c <;> simp
theorem test_witness_ForwardCountCrossings :
    (∀ c, ¬crossed (printing .running ahead) c) ∧
    crossed ((atTarget .running).setChan 2 Channel.reset) 0 ∧
    ∀ d, d ≠ 0 → ¬crossed ((atTarget .running).setChan 2 Channel.reset) d := by
  simp only [crossed_iff]; decide +kernel

/-- The press with a lockout reference and `n` captures queued. -/
def edged (ref : Option (BitVec 40)) (n : Nat) : State :=
  { press .running false with posn := { (press .running false).posn with lockoutRef := ref, productQueue := List.replicate n 0 } }
theorem lockedOut (r : BitVec 40) (h : (edged (some 1510675) 7).posn.lockoutRef = some r) :
    r.toNat + 256 * 300 ≤ 1587475 := by
  have e : (edged (some 1510675) 7).posn.lockoutRef = some 1510675 := by decide +kernel
  rw [e] at h; obtain rfl := Option.some.inj h; decide +kernel
/-- 300 lines are 76,800; the capture is 1,587,475. -/
theorem test_witness_ProductEdgeTakesCapture :
    (edged none 0).layout = some (layout false) ∧ (edged none 0).posn.productLevel = (layout false).falling ∧
    captureOf (edged none 0).posn.pos = 1587475#40 ∧ (edged none 0).ctl.engine = .running ∧
    (∀ r, (edged (some 1510675) 7).posn.lockoutRef = some r → r.toNat + 256 * 300 ≤ 1587475) ∧
    (edged (some 1510675) 7).win.unbound = [] ∧ (edged (some 1510675) 7).posn.productQueue.length < 8 ∧
    8 ≤ (edged (some 1510675) 8).posn.productQueue.length ∧
    ∃ r, (edged (some 1510676) 0).posn.lockoutRef = some r ∧ ¬r.toNat + 256 * 300 ≤ 1587475 :=
  ⟨rfl, rfl, by decide +kernel, rfl, lockedOut,
   by decide +kernel, by decide +kernel, by decide +kernel, 1510676, by decide +kernel, by decide +kernel⟩
/-- Three pages of one band each: page 0 bound, page 1 unbound behind it, the continuous page 2 FOLLOWING page 1;
head 1 is parked with its ready note. -/
def threePages : State :=
  let s := printing .running ahead
  { s with
    heads := s.heads.set 1 { served with service := .parked, timer := some 100000, ready := true }
    win := { s.win with
      bands := [bandEntry, { bandEntry with id := 1, page := 1 }, { bandEntry with id := 2, page := 2, continuous := true }]
      pages := [page ahead, { page .unbound with id := 1, firstBand := 1, ended := true, pred := some 0 },
                { page .following with id := 2, firstBand := 2, continuous := true, pred := some 1 }]
      openPage := some 2, unbound := [1], nextBand := 3, nextPage := 3 } }
/-- A page whose first band has OFFSET 0, on a layout whose row A of head 0 has offset 0: P has reached it at once. -/
def atOnce : State :=
  let s := printing .running .unbound
  { s with
    layout := some { layout false with heads := (layout false).heads.set 0 (some { entry 0 with headOffset := 0, trim := 0 }) }
    win := { s.win with bands := [{ bandEntry with offset := 0 }] } }
/-- The capture is 1,587,475; page 0 ends at 2,000,512. -/
theorem test_witness_ProductEdgeBindsOldestPage :
    (∀ s ∈ [threePages, atOnce], s.posn.productLevel = false ∧ s.ctl.engine = .running ∧ s.posn.lockoutRef = none ∧
      s.layout.map Layout.falling = some false ∧ captureOf s.posn.pos = 1587475#40) ∧
    threePages.win.unbound = [1] ∧
    ((findPage threePages 1).map fun p => (p.continuous, predEnd threePages p, firstOffset threePages p)) =
      some (false, some 2000512, 16384) ∧
    NumberingLaw threePages ∧
    ((findPage threePages 2).map fun p => (p.continuous, p.pred, p.binding)) = some (true, some 1, .following) ∧
    (∀ u ∈ threePages.win.pages, u.pred = some 1 → u.binding = .following → u.id = 2) ∧
    (∃ b ∈ threePages.win.bands, b.page = 1) ∧ (∃ b ∈ threePages.win.bands, b.page = 2) ∧
    (threePages.head 1).service = .parked ∧ (threePages.head 1).ready = true ∧
    atOnce.win.unbound = [0] ∧ ((findPage atOnce 0).map fun p => (p.continuous, predEnd atOnce p, firstOffset atOnce p)) =
      some (false, none, 0) ∧ reached atOnce.posn.pos (1587475 + oMin atOnce.layout) = true :=
  ⟨by decide +kernel, by decide +kernel, by decide +kernel,
   ⟨by decide +kernel, by decide +kernel, by decide +kernel, by decide +kernel⟩, by decide +kernel⟩
/-- R51, R54, R166: the bound page is raised to 2,000,512, the page behind it ends 512 + 16,384 on, head 1 returns. -/
theorem test_edge_binds_in_turn :
    after .productEdge threePages [] (fun t => t.win.pages.map Page.binding) = [ahead, .bound 2000512, .bound 2017408] ∧
    after .productEdge threePages none (fun t => (t.head 1).returnBand) = some 1 ∧
    after .productEdge atOnce [] (fun t => t.win.pages.map Page.binding) = [.late 1587475] := by decide +kernel
theorem test_witness_ReachedComparesAtFullWidth :
    2 ^ 48 ≤ 2 ^ 48 ∧ (2 ^ 40 - 1) * 2 ^ 16 ≤ (0xFFFFFFFF#32).toNat * 2 ^ 24 + (0xFFFFFF#24).toNat := by decide

/-- Channel 0 with its first line composed, in the given slot, deferred or not, last fired at `fire`. -/
def composed0 (x : RowSlot) (deferred : Bool) (fire pulse : Option Nat) (s : State) : State :=
  withChan0 (fun ch => { ch with queue := [line0], slot := x, deferred := deferred, lastFire := fire, pulseEnd := pulse }) s
theorem test_witness_StrobePulseEndMayShip :
    ((composed0 .empty false none (some 20) (printing .running ahead)).chan 0).pulseEnd = some 20 ∧
    (printing .running ahead).tick < 20 ∧ 20 ≤ max (printing .running ahead).tick 20 ∧
    (let s := composed0 .empty false none (some 20) (printing .running ahead)
     s.ctl.engine = .running ∧ (s.chan 0).next = some ⟨0, 0⟩ ∧ (s.chan 0).queue = [line0] ∧ line0.ref = ⟨0, 0⟩ ∧
     serves s (headOf 0) 0 = true ∧ (s.chan 0).slot = .empty ∧ (s.chan 0).shipRequest = false ∧
     (chanEntry s.layout 0).isSome = true) ∧
    (let s := composed0 (.shipped ⟨0, 0⟩) false none (some 20) (printing .running ahead)
     (s.chan 0).pulseEnd = some 20 ∧ (s.chan 0).slot ≠ .empty) := by decide +kernel
theorem test_witness_PeriodEndFiresDeferredLine :
    let s := composed0 (.shipped ⟨0, 0⟩) true (some 0) none (atTarget .running)
    chanState s 0 = .deferred ∧ (s.chan 0).lastFire = some 0 ∧ (s.chan 0).next = some ⟨0, 0⟩ ∧
    (s.chan 0).queue = [line0] ∧ line0.ref = ⟨0, 0⟩ ∧ (s.chan 0).slot = .shipped ⟨0, 0⟩ ∧
    (∀ n, (lineAfter s 0 ⟨0, 0⟩).bind (target s 0) = some n → reached s.posn.pos n = false) ∧
    (let u := composed0 (.shipped ⟨0, 0⟩) true (some 0) none (printing .running (.bound 1586000))
     chanState u 0 = .deferred ∧ ((lineAfter u 0 ⟨0, 0⟩).bind (target u 0)).any (reached u.posn.pos) = true) :=
  ⟨by decide +kernel, by decide +kernel, by decide +kernel, by decide +kernel, by decide +kernel, by decide +kernel,
   optional (by decide +kernel), by decide +kernel⟩
/-- Waiting, shipped and ready at the period's last tick; shipped one tick before; composed alone; not composed
under either policy; skipping; deferred with the line in transit, shipped, and with its ship request; frozen; idle. -/
theorem test_witness_CrossingOutcomes :
    (let s := composed0 (.shipped ⟨0, 0⟩) false (some 0) none { atTarget .running with tick := 500 }
     (s.chan 0).next = some ⟨0, 0⟩ ∧ chanState s 0 = .waiting ∧ (s.chan 0).queue = [line0] ∧ line0.ref = ⟨0, 0⟩ ∧
     (s.chan 0).slot = .shipped ⟨0, 0⟩ ∧ (s.chan 0).lastFire = some 0 ∧ 0 + periodOf s 0 ≤ s.tick) ∧
    (let s := composed0 (.shipped ⟨0, 0⟩) false (some 0) none { atTarget .running with tick := 499 }
     chanState s 0 = .waiting ∧ (s.chan 0).lastFire = some 0 ∧ ¬0 + periodOf s 0 ≤ s.tick) ∧
    (let s := composed0 .empty false none none (atTarget .running)
     chanState s 0 = .waiting ∧ (s.chan 0).slot ≠ .shipped ⟨0, 0⟩) ∧
    (chanState (atTarget .running) 0 = .waiting ∧ ((atTarget .running).chan 0).queue = [] ∧
     (atTarget .running).layout.map Layout.haltPolicy = some false) ∧
    (let s := { atTarget .running with layout := some (layout true) }
     chanState s 0 = .waiting ∧ (s.chan 0).queue = [] ∧ s.layout.map Layout.haltPolicy = some true ∧ working s = true) ∧
    (let s := withHead0 (fun d => { d with service := .parked }) (atTarget .running)
     chanState s 0 = .skipping ∧ (s.chan 0).next = some ⟨0, 0⟩) ∧
    (∀ x ∈ [RowSlot.empty, .transit ⟨0, 0⟩, .shipped ⟨0, 0⟩],
      (let s := withChan0 (fun ch => { ch with shipRequest := decide (x = .empty) })
         (composed0 x true none none (atTarget .running))
       chanState s 0 = .deferred ∧ (s.chan 0).next = some ⟨0, 0⟩ ∧ (s.chan 0).queue = [line0])) ∧
    chanState (atTarget .halted) 0 = .frozen ∧ chanState State.reset 0 = .idle := by decide +kernel

/-- LIST_HEAD written in STOPPED; 5 is taken as 0. -/
def headed (a : Addr) : State := { State.reset with reader := { State.reset.reader with listHead := a } }
theorem test_witness_StartBeginsAtListHead :
    (headed 0x2000).ctl.engine = .stopped ∧ (headed 0x2000).reader.listHead &&& ~~~7#64 ≠ 0 := by decide
theorem test_witness_RefusedCommandsOnlyRaise :
    (press .running false).ctl.engine ≠ .stopped ∧ (headed 7).reader.listHead &&& ~~~7#64 = 0 ∧
    (press .draining false).ctl.engine ≠ .running ∧ (press .draining false).ctl.engine ≠ .suspended ∧
    (press .aborting false).ctl.engine = .aborting ∧ ((accessed 0x500 15).extractLsb' 0 8).toNat = 0 ∧
    5 < ((accessed 6 1).extractLsb' 0 8).toNat := by decide +kernel
/-- An edit of head 0; a band record; a layout record. -/
def edit (immediate : Bool) (is : List Nat) : EditRecord :=
  { head := 0, immediate := immediate, op := .add, notify := true, indices := is }
def band (start : Bool) : BandRecord :=
  { lines := 2, planes := 3, pageStart := start, pageEnd := false, continuous := false, notify := true, offset := 16384
    sources := bandEntry.sources }
def layoutRecord : LayoutRecord := { block := 0x4000, notify := true }
theorem test_witness_StopDrains :
    (printing .suspended ahead).ctl.engine = .suspended ∧ (printing .suspended ahead).win.bands ≠ [] ∧
    (press .running false).win.bands = [] ∧ (press .running false).reader.work = .idle ∧
    (press .running false).port.failed = [] ∧ ∀ h, ((press .running false).map h).staged = none := by decide +kernel
/-- Channel 0 has line 0 shipped, and head 1 is returning. -/
def returning : State :=
  (composed0 (.shipped ⟨0, 0⟩) false none none (withWork .idle (printing .running ahead))).setHead 1
    { served with service := .returning, returnBand := some 0, config := some false }
theorem test_witness_AbortFreezesAndParks :
    (∀ e ∈ [edit true [7], edit true [256], edit false [7], { edit false [7] with op := .noOperation }],
      let s := withWork (.editing e 0x3000) returning
      s.ctl.engine = .running ∧ s.reader.work = .editing e 0x3000 ∧ (s.map e.head).hold = none ∧
      (∀ g ∈ partners s.layout e.head, (s.map g).hold = none) ∧ s.win.bands ≠ []) ∧
    (let s := withWork (.editing (edit false [7]) 0) (press .halted false)
     s.reader.work = .editing (edit false [7]) 0 ∧ s.win.bands = [] ∧ (edit false [7]).immediate = false) ∧
    (let s := withWork (.editing (edit true [7]) 0) { returning with
       maps := State.reset.maps.set 1 { active := [], staged := none, hold := some { active := [], staged := none, pins := [] } } }
     s.reader.work = .editing (edit true [7]) 0 ∧ (1 : HeadId) ∈ partners s.layout 0 ∧ (s.map 1).hold ≠ none) ∧
    ((returning.head 1).service = .returning ∧ (0 : ChanId) ∈ partnerChans returning 1 ∧
      (returning.head 0).returnBand = none ∧ (returning.chan 0).next = some ⟨0, 0⟩) ∧
    (press .halted false).ctl.engine = .halted ∧ (press .running false).port.linkUp = true ∧
    (withWork (.blockRead 0 layoutRecord 0) (press .draining false)).reader.work = .blockRead 0 layoutRecord 0 ∧
    (withWork (.held (.layout layoutRecord) 0 false) (press .running false)).reader.work = .held (.layout layoutRecord) 0 false ∧
    (let s := withHead0 (fun d => { d with service := .configuring, config := some false })
       (withWork (.configuring layoutRecord 1 0) (press .suspended false))
     s.reader.work = .configuring layoutRecord 1 0 ∧ ∃ t, exec .abort s = .next t ∧
       (allHeads.all fun h => (1#16).getLsbD h.val == decide ((t.head h).service = .parked)) = true) :=
  ⟨by decide +kernel, by decide +kernel, by decide +kernel, by decide +kernel, rfl, rfl, rfl, rfl, rfl,
   answersNext (by decide +kernel)⟩
/-- R35, R98, R185: ABORT completes the edit first: the set is changed, the shipped line pinned, the record closed DONE,
and CURRENT_RECORD left on it. -/
theorem test_abort_completes_edit :
    let s := withWork (.editing (edit true [7]) 0x3000) returning
    after .abort s none (fun t => some (t.map 0).sets) = some ([7], none) ∧
    after .abort s [] (fun t => (((t.map 0).hold.map Hold.pins).getD []).map Pin.line) = [0] ∧
    after .abort s none (fun t => some (t.reader.addr, t.port.outbox)) =
      some (0x2000, [.write 0x2004 [1, 0, 0, 0], .write 0x2000 [0, 2, 0, 0]]) := by decide +kernel
/-- R124, R126, R173: ABORT parks the returning head 1, and its partner's channel composes from its next line. -/
theorem test_abort_flushes_partner :
    after .abort (withChan0 (fun ch => { ch with compose := some ⟨0, 1⟩ }) returning) none (fun t => some
      ((t.head 1).service, (t.chan 0).compose, (t.chan 0).queue.length)) = some (.parked, some ⟨0, 0⟩, 0) := by
  decide +kernel
theorem test_witness_EngineResetEmptiesWork :
    (let s := withWork (.editing (edit false [7]) 0x3000) rich
     s.reader.work = .editing (edit false [7]) 0x3000 ∧ (edit false [7]).head = 0 ∧
     (s.map 0).staged = some { set := [3, 5], waiting := 1 } ∧ (s.map 1).staged = none) ∧
    ∀ e n, rich.reader.work = .editing e n → e.head ≠ 0 := ⟨by decide +kernel, nofun⟩
theorem test_witness_PokeResumesReader :
    (press .running false).ctl.engine = .running ∧
    rich.ctl.engine = .suspended ∧ rich.reader.cond = .suspendedOwner ∧
    (let s := rich.withReader { rich.reader with cond := .suspendedEnd }
     s.ctl.engine = .suspended ∧ s.reader.cond = .suspendedEnd) := by decide +kernel
theorem test_witness_RegisterWindowWrites :
    (∀ n ∈ [1, 2, 3, 4, 5], ((accessed (0xFFFFFF00#32 ||| BitVec.ofNat 32 n) 15).extractLsb' 0 8).toNat = n) ∧
    (∀ w ∈ [0x00, 0x04, 0x08, 0x0C, 0x1C, 0x20], ((BitVec.ofNat 12 (w + 3)) &&& 0xFFC#12).toNat = w) ∧
    (0x024#12 &&& 0xFFC#12).toNat ∉ [0x00, 0x04, 0x08, 0x0C, 0x1C, 0x20] ∧
    (0xFFF#12 &&& 0xFFC#12).toNat ∉ [0x00, 0x04, 0x08, 0x0C, 0x1C, 0x20] := by decide +kernel
theorem test_witness_CurrentRecordReads :
    (∀ w ∈ [0x08, 0x0C, 0x10, 0x1C, 0x20, 0x24, 0x28], ((BitVec.ofNat 12 (w + 3)) &&& 0xFFC#12).toNat = w) ∧
    (∀ w ∈ [0x00, 0x04, 0x2C, 0xFFC], ((BitVec.ofNat 12 w) &&& 0xFFC#12).toNat = w) ∧
    rich.ctl.capture = none ∧ ({ rich with ctl := { rich.ctl with capture := some 7 } } : State).ctl.capture = some 7 := by
  decide +kernel
/-- R193: byte 0x11 of ENGINE_STATUS is HALT_CAUSE, and the other bytes of the access are 0. -/
theorem test_partial_read : readRegister 0x11 0b0010#4 { State.reset with
    ctl := { State.reset.ctl with engine := .halted, cause := .starved } } = 0x00000400 := by decide +kernel
theorem test_witness_ListHeadWriteTaken : State.reset.ctl.engine = .stopped := rfl
theorem test_witness_DrainAndAbortEnd :
    (let s := press .draining false
     s.ctl.engine = .draining ∧ s.win.bands = [] ∧ s.reader.work = .idle ∧ s.port.failed = [] ∧ ∀ h, (s.map h).staged = none) ∧
    (let s := press .aborting false
     s.ctl.engine = .aborting ∧ s.win.bands = [] ∧ s.reader.work = .idle ∧ s.port.failed = [] ∧ ∀ h, (s.map h).staged = none) ∧
    (press .running false).ctl.engine ≠ .draining ∧ (printing .aborting ahead).win.bands ≠ [] := by decide +kernel

/-! The List Reader: a transfer numbered 0 holds the bytes read, or has failed. -/

def header (own type : Byte) (next : Nat) : List Byte := [own, type] ++ leBytes 6 0 ++ leBytes 8 next
def reads (e : EngineState) (w : ReaderWork) (bs : List Byte) : State := withTransfer none false bs (withWork w (press e false))
/-- Owned at type 1, 2, 3 and unknown; not owned, and owned by a band still open, with and without a poke mark. -/
theorem test_witness_HeaderActedOn :
    (∀ n ∈ [1, 2, 3, 9], (let bs := header 1 (BitVec.ofNat 8 n) 0x3007
       let s := reads .running (.headerRead 0) bs
       s.reader.work = .headerRead 0 ∧ transferBytes s.port 0 = some bs ∧ s.ctl.engine = .running ∧
       (BitVec.ofNat 8 (field bs 0 1)).getLsbD 0 = true ∧ s.win.bands = [] ∧ field bs 1 1 = n)) ∧
    recordType 1 = some .band ∧ recordType 2 = some .edit ∧ recordType 3 = some .layout ∧ recordType 9 = none ∧
    (let bs := header 0xFE 1 0
     let s := reads .running (.headerRead 0) bs
     transferBytes s.port 0 = some bs ∧ (BitVec.ofNat 8 (field bs 0 1)).getLsbD 0 = false ∧ s.reader.pokePending = false ∧
     let p := s.withReader { s.reader with pokePending := true }
     p.reader.work = .headerRead 0 ∧ transferBytes p.port 0 = some bs ∧ p.reader.pokePending = true) ∧
    (let s := withTransfer none false (header 1 1 0) ((printing .running ahead).withReader
       { State.reset.reader with addr := 0x1000, work := .headerRead 0 })
     s.reader.work = .headerRead 0 ∧ transferBytes s.port 0 = some (header 1 1 0) ∧
     ∃ b ∈ s.win.bands, b.addr = s.reader.addr) := by decide +kernel
/-- A band of no planes and of two, an edit with no index and with one, a layout. -/
def bandFixed (planes : Byte) : List Byte := leBytes 2 2 ++ [planes, 1] ++ leBytes 36 0
theorem test_witness_BodyHeldByType :
    (let s := reads .running (.bodyFixed 0 .band 0x3000) (bandFixed 3)
     s.reader.work = .bodyFixed 0 .band 0x3000 ∧ transferBytes s.port 0 = some (bandFixed 3) ∧ s.ctl.engine = .running ∧
     listBytes .band (bandFixed 3) ≠ 0 ∧ s.layout.isSome = true ∧ s.win.bands.length < 64) ∧
    listBytes .band (bandFixed 0) = 0 ∧ State.reset.layout = none ∧
    (let s := { reads .running (.bodyFixed 0 .band 0) (bandFixed 0) with
       win := { Window.reset with bands := List.replicate 64 bandEntry } }
     transferBytes s.port 0 = some (bandFixed 0) ∧ 64 ≤ s.win.bands.length) ∧
    (let s := reads .running (.bodyList 0 .edit 0 [0, 1, 1, 0]) [5, 0]
     s.reader.work = .bodyList 0 .edit 0 [0, 1, 1, 0] ∧ transferBytes s.port 0 = some [5, 0] ∧
     recordBody .edit [0, 1, 1, 0] [5, 0] = .edit { head := 0, immediate := true, op := .add, notify := false, indices := [5] }) ∧
    (let s := withTransfer none false [0, 0, 0, 0] (withWork (.bodyFixed 0 .edit 0) { rich with ctl := { rich.ctl with engine := .running } })
     s.reader.work = .bodyFixed 0 .edit 0 ∧ listBytes .edit [0, 0, 0, 0] = 0 ∧
     recordBody .edit [0, 0, 0, 0] [] = .edit { head := 0, immediate := false, op := .add, notify := false, indices := [] } ∧
     (s.map 0).staged ≠ none) ∧
    (let s := reads .running (.bodyFixed 0 .layout 0) (leBytes 16 0x4000)
     transferBytes s.port 0 = some (leBytes 16 0x4000) ∧ listBytes .layout (leBytes 16 0x4000) = 0 ∧ s.win.bands = [] ∧
     recordBody .layout (leBytes 16 0x4000) [] = .layout { block := 0x4000, notify := false }) ∧
    (let s := withTransfer none false (leBytes 16 0x4000) (withWork (.bodyFixed 0 .layout 0) (printing .running ahead))
     s.reader.work = .bodyFixed 0 .layout 0 ∧ transferBytes s.port 0 = some (leBytes 16 0x4000) ∧
     s.ctl.engine = .running ∧ s.win.bands ≠ []) := by decide +kernel
theorem test_witness_NextFollowed :
    (press .running false).ctl.engine = .running ∧ (0x3000 : Addr) ≠ 0 ∧ (press .running false).reader.pokePending = false ∧
    (let s := (press .suspended false).withReader { State.reset.reader with pokePending := true }
     s.ctl.engine = .suspended ∧ s.reader.pokePending = true) ∧
    (press .draining false).ctl.engine = .draining ∧ (press .aborting false).ctl.engine = .aborting ∧
    (let s := reads .running (.nextRead 0) (leBytes 8 0x3000)
     s.reader.work = .nextRead 0 ∧ transferBytes s.port 0 = some (leBytes 8 0x3000) ∧ s.ctl.engine = .running) := by
  decide +kernel
def unit : WriteUnit := { writes := [(0x1004, 1), (0x1000, 0x100)], notify := true }
/-- A unit of the head band waits to be reported. -/
def unitFailed (e : EngineState) : State :=
  (press e false).withPort { State.reset.port with linkUp := false, failed := [{ unit := unit, place := 0 }], outbox := [.interrupt] }
theorem test_witness_FailuresHaltTheEngine :
    (let s := withTransfer none true [] (withWork (.headerRead 0) (press .running false))
     readerXfer s.reader.work = some 0 ∧ transferFailed s.port 0 = true ∧ working s = true) ∧
    (unitFailed .running).port.failed = [{ unit := unit, place := 0 }] ∧ working (unitFailed .running) = true ∧
    (unitFailed .halted).ctl.engine = .halted ∧ (unitFailed .aborting).port.failed ≠ [] ∧
    (unitFailed .aborting).ctl.engine = .aborting := by decide +kernel
/-- R41: the failed unit's writes stand before what was posted after it. -/
theorem test_failed_unit_keeps_place :
    after (.writebackUnitFailed 1) (unitFailed .halted) [] (fun t => t.port.outbox) =
      [.write 0x1004 [1, 0, 0, 0], .interrupt] := by decide +kernel

/-! The Band Window -/

/-- A window of `n` bands in page 0, and the band record `b` held. -/
def admitting (n : Nat) (b : BandRecord) (s : State) : State :=
  { withWork (.held (.band b) 0x3000 false) s with
    win := { (printing .running ahead).win with
      bands := (List.range n).map fun i => { bandEntry with id := i, pageStart := decide (i = 0) }, nextBand := n } }
/-- A band held over the open page 0 with binding `x`, with captures queued. -/
def behind (x : PageBinding) (q : List (BitVec 40)) (b : BandRecord) : State :=
  let s := withWork (.held (.band b) 0x3000 false) (printing .running x)
  { s with posn := { s.posn with productQueue := q }, win := { s.win with firstPage := false } }
/-- The same over the empty window, as the first page. -/
def asFirst (q : List (BitVec 40)) (b : BandRecord) : State :=
  let s := withWork (.held (.band b) 0x3000 false) (press .running false)
  { s with posn := { s.posn with productQueue := q } }
theorem admission_laws (x : PageBinding) (q : List (BitVec 40)) (b : BandRecord) :
    NumberingLaw (behind x q b) ∧ PageOrderLaw (behind x q b) ∧ BandCountLaw (behind x q b) :=
  ⟨⟨List.pairwise_singleton _ _, (by decide : ∀ b ∈ [bandEntry], b.id < 1), List.pairwise_singleton _ _,
    List.forall_mem_singleton.2 (by decide : 0 < 1)⟩,
   pageOrder (by decide : ∀ x ∈ [0], x < 1) (by decide : ∀ x ∈ ([] : List Nat), x < 1)
     (List.forall_mem_singleton.2 (by decide : ∀ x ∈ (none : Option Nat).toList, x < 0))
     (List.forall_mem_singleton.2 (by decide : 0 < 1)),
   (by unfold BandEntry.CountLaw; decide +kernel : ∀ b ∈ [bandEntry], b.CountLaw (some (layout false))), nofun⟩
/-- A capture before and behind page 0's end of 2,000,512; a continuous page behind a bound, an unbound and no page;
a band that joins a LATE page. -/
theorem test_witness_BandAdmission_binds :
    (∀ s ∈ [behind ahead [] (band true), behind ahead [5] (band true), behind ahead [1990000] (band true),
            behind ahead [] { band true with continuous := true }, behind .unbound [] { band true with continuous := true },
            behind (.late 1000) [] (band false), asFirst [5] (band true), asFirst [] { band true with continuous := true }],
      s.ctl.engine = .running ∧ s.layout.isSome = true ∧ s.win.bands.length < 64) ∧
    (behind ahead [5] (band true)).win.openPage = some 0 ∧ (behind ahead [5] (band true)).win.firstPage = false ∧
    findPage (behind ahead [5] (band true)) 0 = some (page ahead) ∧ 5 + 16384 < 2000000 + 256 * 2 ∧
    2000000 + 256 * 2 < 1990000 + 16384 ∧ (asFirst [5] (band true)).win.firstPage = true ∧
    findPage (behind .unbound [] (band true)) 0 = some (page .unbound) ∧
    findPage (behind (.late 1000) [] (band false)) 0 = some (page (.late 1000)) ∧
    NumberingLaw (asFirst [5] (band true)) ∧ PageOrderLaw (asFirst [5] (band true)) ∧
    BandCountLaw (asFirst [5] (band true)) :=
  ⟨by decide +kernel, by decide +kernel, by decide +kernel, by decide +kernel, by decide +kernel, by decide +kernel,
   by decide +kernel, by decide +kernel, by decide +kernel,
   ⟨by decide +kernel, by decide +kernel, by decide +kernel, by decide +kernel⟩,
   pageOrder (by decide +kernel) (by decide +kernel) (by decide +kernel) (by decide +kernel), nofun, nofun⟩
/-- R51: the queued capture is used up, its page raised to page 0's end. -/
theorem test_admission_binds :
    after .bandAdmit (behind ahead [5] (band true)) [] (fun t => t.win.pages.map Page.binding) = [ahead, .bound 2000512] ∧
    after .bandAdmit (behind ahead [5] (band true)) [] (fun t => t.win.bands.map BandEntry.overlap) = [false, true] := by
  decide +kernel
theorem test_witness_BandAdmission :
    (let s := admitting 63 (band true) (press .running false)
     s.reader.work = .held (.band (band true)) 0x3000 false ∧ s.ctl.engine = .running ∧ s.layout.isSome = true ∧
     s.win.bands.length < 64 ∧ (band true).pageStart = true) ∧
    NumberingLaw (admitting 63 (band true) (press .running false)) ∧
    PageOrderLaw (admitting 63 (band true) (press .running false)) ∧
    BandCountLaw (admitting 63 (band true) (press .running false)) ∧
    (let s := admitting 63 (band false) (press .running false)
     s.win.openPage = some 0 ∧ findPage s 0 = some (page ahead) ∧ (page ahead).id = 0 ∧ (band false).pageStart = false) ∧
    (let s := withWork (.held (.band (band false)) 0 false) (press .running false)
     s.win.openPage = none ∧ s.port.linkUp = true) ∧
    (let s := withWork (.held (.band (band true)) 0 false) { press .running false with layout := none }
     (s.layout = none ∧ s.ctl.engine = .running) ∧ NumberingLaw s ∧ PageOrderLaw s ∧ BandCountLaw s) :=
  ⟨by decide +kernel,
   ⟨by decide +kernel, by decide +kernel, by decide +kernel, by decide +kernel⟩,
   pageOrder (by decide +kernel) (by decide +kernel) (by decide +kernel) (by decide +kernel),
   ⟨by unfold BandEntry.CountLaw; decide +kernel, nofun⟩, by decide +kernel, by decide +kernel, by decide +kernel,
   ⟨by decide +kernel, by decide +kernel, by decide +kernel, by decide +kernel⟩,
   pageOrder (by decide +kernel) (by decide +kernel) (by decide +kernel) (by decide +kernel), nofun, nofun⟩
theorem test_witness_HeadBandCloses :
    (printing .aborting ahead).win.bands = [bandEntry] ∧ (printing .aborting ahead).ctl.engine = .aborting ∧
    working (printing .draining ahead) = true ∧ bandEntry.late = false ∧ bandEntry.outstanding ≠ 0 ∧
    findPage (printing .running ahead) bandEntry.page = some (page ahead) ∧ (page ahead).binding = .bound 2000000 ∧
    (let s := { printing .running ahead with
       win := { (printing .running ahead).win with bands := [{ bandEntry with outstanding := 0, fired := 8 }] } }
     working s = true ∧ s.win.bands.map BandEntry.outstanding = [0] ∧ findPage s 0 = some (page ahead)) ∧
    (let s := { printing .running (.late 1000) with win := { (printing .running (.late 1000)).win with
       bands := [{ bandEntry with outstanding := 0, late := true }] } }
     working s = true ∧ s.win.bands.map BandEntry.late = [true]) ∧
    (printing .halted ahead).ctl.engine = .halted := by decide +kernel
theorem test_witness_WriteBackUnitPosted :
    State.reset.port.linkUp = true ∧ unit.notify = true ∧ { unit with notify := false }.notify = false ∧
    (unitFailed .running).port.linkUp = false := by decide +kernel

/-! The Nozzle Map Store and the Layout Store -/

theorem test_witness_EditOperations :
    [3, 5, 9].Pairwise (· < ·) ∧ 4 ∉ [3, 5, 9] ∧ (∀ x ∈ [3, 5, 255], x < 256) ∧ (List.range 64).length ≤ 64 := by decide +kernel
theorem test_witness_StagedEditsAndPromotion :
    (∀ s ∈ [withWork (.editing (edit false [7]) 0) (press .running false), withWork (.editing (edit false [7]) 0) (printing .aborting ahead)],
      s.reader.work = .editing (edit false [7]) 0 ∧ (edit false [7]).immediate = false ∧ (edit false [7]).op ≠ .noOperation ∧
      (working s = true ∨ s.ctl.engine = .aborting)) ∧
    (press .running false).win.bands = [] ∧ (printing .aborting ahead).win.bands ≠ [] ∧
    (let s := withWork (.held (.edit (edit false [7])) 0 false)
       { press .running false with maps := State.reset.maps.set 0 { active := [3], staged := some { set := [3, 5], waiting := 0 }, hold := none } }
     (s.map 0).staged = some { set := [3, 5], waiting := 0 } ∧ s.reader.work = .held (.edit (edit false [7])) 0 false ∧
     (edit false [7]).head = 0 ∧ s.ctl.engine = .running) ∧
    (press .halted false).ctl.engine = .halted ∧
    ∀ e n, (press .running false).reader.work = .held (.edit e) n false → e.head ≠ 0 :=
  ⟨by decide +kernel, by decide +kernel, by decide +kernel, by decide +kernel, rfl, nofun⟩
theorem test_witness_ImmediateEditFlushesSeam :
    (let s := composed0 (.shipped ⟨0, 0⟩) false none none (withWork (.editing (edit true [7]) 0) (printing .running ahead))
     s.reader.work = .editing (edit true [7]) 0 ∧ working s = true ∧ (s.map 0).hold = none ∧ (s.chan 0).slot = .shipped ⟨0, 0⟩ ∧
     (∀ g ∈ partners s.layout 0, (s.map g).hold = none) ∧ partners s.layout 0 = [1] ∧
     (applyEdit .add (nozzleLimit s.layout 0) [7] (s.map 0).active).set ≠ (s.map 0).active ∧
     (applyEdit .add (nozzleLimit s.layout 0) [256] (s.map 0).active).set = (s.map 0).active) ∧
    (withWork (.editing (edit true [7]) 0) (press .aborting false)).ctl.engine = .aborting ∧
    (let s := composed0 (.shipped ⟨0, 0⟩) true none none (withWork (.editing (edit true [7]) 0) (printing .running ahead))
     ∀ c ∈ seamChans s 0, (s.chan c).deferred = true → nextShipped (s.chan c) = true) ∧
    (let s := withHead0 (fun d => { d with frame := some (lineFrame false) })
       (composed0 (.transit ⟨0, 0⟩) true none none (withWork (.editing (edit true [7]) 0) (printing .running ahead)))
     (0 : ChanId) ∈ seamChans s 0 ∧ (s.chan 0).slot = .transit ⟨0, 0⟩ ∧ (s.head 0).frame.isSome = true ∧
     (s.chan 0).deferred = true ∧ nextShipped (s.chan 0) ≠ true) := by decide +kernel
/-- R29, R94: under HALT the flush of a composed deferred line starves it, and the record is closed after that: its
unit is posted, and NEXT is not followed. -/
theorem test_immediate_edit_closes_after_flush :
    let s := composed0 .empty true none none (withWork (.editing (edit true [7]) 0x3000)
       { atTarget .running with layout := some (layout true) })
    after .nozzleEditImmediate s none (fun t => some (t.ctl.engine, t.reader.addr, t.port.outbox)) =
      some (.halted, 0x2000, [.write 0x2004 [1, 0, 0, 0], .write 0x2000 [0, 2, 0, 0]]) := by decide +kernel

/-- The block of the test layout: its first two heads, the second as given. -/
def headBytes (plane first : Nat) : List Byte :=
  leBytes 1 plane ++ [1, 4, 5] ++ leBytes 2 first ++ leBytes 2 256 ++ leBytes 4 500 ++ leBytes 4 256 ++ leBytes 4 256 ++
  leBytes 2 10 ++ [1, 3, 6] ++ leBytes 7 0
def blockBytes (plane first : Nat) : List Byte :=
  leBytes 4 2013266 ++ leBytes 4 0 ++ leBytes 4 300 ++ leBytes 4 0 ++ leBytes 4 509 ++ leBytes 44 0 ++
  List.replicate 256 100 ++ headBytes 0 0 ++ headBytes plane first ++ List.replicate 448 255
/-- 10.5: the block is read as the layout it holds. -/
theorem test_layout_block : (blockBytes 0 253).length = 832 ∧
    (layoutOf (layoutBlock (blockBytes 0 253))).heads.toList.take 3 = [some (entry 0), some (entry 253), none] ∧
    ((layoutOf (layoutBlock (blockBytes 0 253))).increment, (layoutOf (layoutBlock (blockBytes 0 253))).lockout,
      (layoutOf (layoutBlock (blockBytes 0 253))).widths.toList) = (2013266, 300, [509, 0, 0, 0, 0, 0, 0, 0]) := by decide +kernel
/-- R70: a plane without width is reason 2, and sharing 65 columns reason 7. -/
theorem test_judge : judge (layoutBlock (blockBytes 1 253)) = some 2 ∧ judge (layoutBlock (blockBytes 0 191)) = some 7 ∧
    judge (layoutBlock (blockBytes 0 192)) = none := by decide +kernel
theorem test_witness_LayoutRecordTakenAndClosed :
    (let s := withWork (.held (.layout layoutRecord) 0 false) (press .running false)
     s.reader.work = .held (.layout layoutRecord) 0 false ∧ s.ctl.engine = .running ∧ s.win.bands = [] ∧
     ∀ h, (s.map h).staged = none) ∧
    (let s := withWork (.configuring layoutRecord 1 0) (press .suspended false)
     s.reader.work = .configuring layoutRecord 1 0 ∧ working s = true ∧ ∀ h, (s.head h).service ≠ .configuring) := by
  decide +kernel
theorem test_witness_LayoutJudgedAndRejected :
    (let s := reads .running (.blockRead 0 layoutRecord 0) (blockBytes 1 253)
     s.reader.work = .blockRead 0 layoutRecord 0 ∧ transferBytes s.port 0 = some (blockBytes 1 253) ∧ working s = true ∧
     judge (layoutBlock (blockBytes 1 253)) = some 2) ∧
    (let hs := (layoutBlock (blockBytes 0 192)).heads
     ((hs[0]?).bind id).map RawHead.firstColumn = some 0 ∧ ((hs[1]?).bind id).map RawHead.firstColumn = some 192 ∧
     ((hs[0]?).bind id).map RawHead.plane = ((hs[1]?).bind id).map RawHead.plane ∧ hs[2]? = some none) := by decide +kernel
theorem test_witness_LayoutAppliedInOneStep :
    let s := reads .running (.blockRead 0 layoutRecord 0) (blockBytes 0 253)
    s.reader.work = .blockRead 0 layoutRecord 0 ∧ transferBytes s.port 0 = some (blockBytes 0 253) ∧ working s = true ∧
    judge (layoutBlock (blockBytes 0 253)) = none ∧ (layoutBlock (blockBytes 0 253)).heads.getD 15 none = none ∧
    ((layoutBlock (blockBytes 0 253)).heads.getD 1 none).map RawHead.firstColumn = some 253 := by decide +kernel

/-! The Memory Port and line composition -/

/-- The port with tag 3 held by the second request of transfer 0, 4 bytes long, one of them arrived. -/
def request3 : State :=
  (press .running false).withPort { State.reset.port with
    tags := State.reset.port.tags.set 3 (.request 0 1 0x5000 4 [7] 100)
    transfers := [{ id := 0, fetch := none, todo := [], nextIndex := 2, inFlight := 1, chunks := [(0, [1, 2])], failed := false }]
    nextXfer := 1 }
/-- R40: the last bytes complete the transfer, in request order. -/
theorem test_completion_gathers : after (.readCompletion 3 true [8, 9, 10]) request3 none
    (fun t => transferBytes t.port 0) = some [1, 2, 7, 8, 9, 10] := by decide +kernel
theorem test_witness_ReadCompletions :
    request3.port.tags[(0 : TagId)] = .free ∧
    (setTag 1 (.hold 55000) request3.port).tags[(1 : TagId)] = .hold 55000 ∧
    request3.port.tags[(3 : TagId)] = .request 0 1 0x5000 4 [7] 100 ∧
    ([7] ++ ([8, 9] : List Byte).take (4 - 1)).length < 4 ∧ 4 ≤ ([7] ++ ([8, 9, 10] : List Byte).take (4 - 1)).length := by
  decide +kernel
theorem test_witness_TimeoutsAndLinkState :
    request3.port.tags[(3 : TagId)] = .request 0 1 0x5000 4 [7] 100 ∧
    (request3.withPort (setTag 1 (.hold 55000) request3.port)).port.tags[(1 : TagId)] = .hold 55000 := by decide +kernel
/-- A transfer of four requests, none issued, and the press with it listed. -/
def toIssue (f : Option (ChanId × LineRef)) : Transfer :=
  { id := 0, fetch := f, todo := [(0x4000, 256), (0x4100, 256), (0x4200, 256), (0x4300, 64)], nextIndex := 0, inFlight := 0,
    chunks := [], failed := false }
def listed (f : Option (ChanId × LineRef)) (grant : Option Nat) (up : Bool) : State :=
  (press .running false).withPort { State.reset.port with
    transfers := [toIssue f], nextXfer := 1, grant := grant, linkUp := up }
theorem test_witness_ReadsCutIntoRequests :
    cutRead 513 0x10037FB4 512 = [(0x10037FB4, 76)] ++ (0x10038000, 256) :: [(0x10038100, 180)] ∧
    request3.port.tags[(3 : TagId)] ≠ .free ∧
    (∀ up ∈ [true, false], (let s := listed none none up
       s.port.transfers.find? (fun x => x.fetch.isNone) = some (toIssue none) ∧ s.port.grant ≠ some 0 ∧
       s.port.linkUp = up ∧ (toIssue none).todo ≠ [] ∧ (toIssue none).inFlight < 2 ∧ 0 < freeTags s.port)) ∧
    (∀ up ∈ [true, false], (let s := listed (some (0, ⟨0, 0⟩)) (some 0) up
       s.port.grant = some 0 ∧ findTransfer s.port 0 = some (toIssue (some (0, ⟨0, 0⟩))) ∧ s.port.linkUp = up ∧
       (toIssue (some (0, ⟨0, 0⟩))).todo ≠ [] ∧ 3 ≤ freeTags s.port ∧
       ∀ x ∈ s.port.transfers, x.fetch = none → x.id ≠ 0)) := by decide +kernel
/-- R39: the List Reader's third request waits; a line fetch takes all four. -/
theorem test_requests_issued :
    ((pump (listed none none true)).port.transfers.map Transfer.inFlight,
     (pump (listed (some (0, ⟨0, 0⟩)) (some 0) true)).port.transfers.map Transfer.inFlight) = ([2], [4]) := by decide +kernel
theorem test_witness_SourceLinesAndLevels :
    65534 ≤ 65534 ∧ ({ plane := 0, base := 0, stride := 9, first := 65535, tile := 1 } : PlaneSource).tile = 1 ∧
    ({ plane := 0, base := 0, stride := 0, first := 1, tile := 0 } : PlaneSource).stride = 0 ∧
    3990 ≤ 3990 ∧ 6037 < 3990 + 2048 := by decide
theorem test_witness_SeamColumnsOwnedOnce :
    (∀ first ∈ [192, 253, 255], let w := (entry 0).firstColumn + (entry 0).nozzles - (entry first).firstColumn
      1 ≤ w ∧ w ≤ 64 ∧ (entry first).firstColumn ≤ first ∧ 255 < (entry first).firstColumn + w) ∧
    (Vector.replicate 256 (255 : Byte))[0].toNat = 255 ∧ (Vector.replicate 256 (0 : Byte))[0].toNat = 0 ∧
    (⟨entry 0, [], true⟩ : SeamHead).serves = true ∧ (⟨entry 0, [], false⟩ : SeamHead).serves = false := by decide +kernel
theorem test_witness_CompensationKeepsLevels :
    [true, true, true].length = [1, 2, 3].length ∧ (∀ v ∈ [1, 2, 3], v ≤ 3) ∧ (∀ i ∈ [0, 2], i % 2 = 0) ∧
    (∀ i ∈ [1], i % 2 = 1) ∧ 0 ∉ [2] ∧ 0 + 1 ∉ [2] ∧ ∀ k ∈ [2], 0 ≠ k + 1 := by decide
/-- C0 to C3 request; C0's target is the earliest, equal to C2's. -/
theorem test_witness_FetchGrantedToEarliestTarget :
    let s := printing .running ahead
    s.port.grant = none ∧ 3 ≤ freeTags s.port ∧ fetchRequest s 0 = some (⟨0, 0⟩, 2000256) ∧
    fetchRequest s 2 = some (⟨0, 0⟩, 2000256) ∧
    (∀ d q m, fetchRequest s d = some (q, m) → 2000256 < m ∨ (2000256 = m ∧ 0 ≤ d)) ∧
    chanEntry s.layout 0 = some (entry 0) ∧ findBand s 0 = some bandEntry ∧
    (bandEntry.sources.find? fun y => y.plane == (entry 0).plane).isSome = true :=
  ⟨by decide +kernel, by decide +kernel, by decide +kernel, by decide +kernel,
   fun d q m h => (by decide +kernel : ∀ d, ∀ x ∈ (fetchRequest (printing .running ahead) d).toList,
     2000256 < x.2 ∨ (2000256 = x.2 ∧ 0 ≤ d)) d (q, m) (by simp [h]),
   by decide +kernel, by decide +kernel, by decide +kernel⟩
/-- Channel 0's line fetch, transfer 0, live, and `n` lines of its head's row. -/
def fetching (live failed : Bool) : State :=
  withTransfer (some (0, ⟨0, 0⟩)) failed (List.replicate 64 0x55)
    (withChan0 (fun ch => { ch with live := if live then some ⟨⟨0, 0⟩, 0⟩ else none }) (printing .running ahead))
theorem test_witness_FetchOutcomePlacesLine :
    ((findTransfer (fetching true false).port 0).map Transfer.fetch) = some (some (0, ⟨0, 0⟩)) ∧
    (fetching true false).layout.isSome = true ∧ chanEntry (fetching true false).layout 0 = some (entry 0) ∧
    ((fetching true false).chan 0).live = some ⟨⟨0, 0⟩, 0⟩ ∧ ((fetching true false).chan 0).compose = some ⟨0, 0⟩ ∧
    serves (fetching true false) (headOf 0) 0 = true ∧ ((fetching true false).head (headOf 0)).returnBand = none ∧
    transferBytes (fetching true false).port 0 = some (List.replicate 64 0x55) ∧
    transferFailed (fetching true true).port 0 = true ∧ ((fetching true true).chan 0).live = some ⟨⟨0, 0⟩, 0⟩ ∧
    ((fetching false true).chan 0).live ≠ some ⟨⟨0, 0⟩, 0⟩ ∧
    transferBytes (fetching false false).port 0 ≠ none := by decide +kernel

/-! The head links -/

/-- Head 0's link with a queue. -/
def queued (k : RequestKind) (d : HeadLink → HeadLink) (s : State) : State :=
  withHead0 (fun x => d { x with queue := [{ kind := k, joined := 0 }] }) s
/-- A head whose confirmed shadow holds the layout's parameters. -/
def confirmed (d : HeadLink) : HeadLink :=
  { d with service := .configuring, config := some false, shadow := #v[⟨5, true⟩, ⟨10, true⟩, ⟨1, true⟩, ⟨3, true⟩, ⟨6, true⟩] }
theorem test_witness_FrameBegins :
    (let s := withHead0 (fun d => { d with link := .sending 72, frame := some (lineFrame false) })
       { printing .running ahead with tick := 71 }
     (s.head 0).link = .sending 72 ∧ (s.head 0).frame = some (lineFrame false) ∧ 287 < frameLength (lineFrame false).body ∧
     0 < (lineFrame false).lanes ∧ s.tick = (lineFrame false).begun + 287 / (lineFrame false).lanes ∧
     (lineFrame false).lanes ≤ 4 ∧ ((press .running false).head 0).link = .idle) ∧
    (let s := withHead0 (fun d => { d with again := some (lineFrame true) }) (printing .running ahead)
     (s.head 0).link = .idle ∧ (s.head 0).again = some (lineFrame true)) ∧
    (let s := queued .lineA id (composed0 .empty false none none (printing .running ahead))
     (s.head 0).link = .idle ∧ (s.head 0).again = none ∧ (s.head 0).queue.find? (servable s) = some ⟨.lineA, 0⟩ ∧
     RequestKind.lineA = shipKind (chanOf 0 .a) ∧ nextComposed (s.chan (chanOf 0 .a)) = some line0) ∧
    (let s := queued .query id (press .halted false)
     (s.head 0).queue.find? (servable s) = some ⟨.query, 0⟩ ∧ (s.head 0).config = none) ∧
    (let s := queued .query confirmed (press .running false)
     (s.head 0).queue.find? (servable s) = some ⟨.query, 0⟩ ∧ (s.head 0).config ≠ none ∧ dueParams s 0 = []) ∧
    (let s := queued .config (fun d => { d with config := some false }) (press .running false)
     (s.head 0).queue.find? (servable s) = some ⟨.config, 0⟩ ∧ (s.head 0).config ≠ none ∧
     entryOf s.layout 0 = some (entry 0) ∧ dueParams s 0 ≠ []) := by decide +kernel
theorem test_witness_FrameAndResetEnd :
    (let s := withHead0 (fun d => { d with link := .sending 72 }) (press .running false)
     (s.head 0).link = .sending 72) ∧ (State.reset.head 0).link = .resetting 100 := by decide +kernel
/-- Head 0 waits since tick 72 for the answer to a frame. -/
def waiting (f : Frame) (d : HeadLink → HeadLink) (s : State) : State :=
  withHead0 (fun x => d { x with link := .answerWait 72, frame := some f }) s
/-- Head 0 waits for the answer to `f`, its channel's line in transit, DEFERRED on it or not, last fired at 0. -/
def inTransit (f : Frame) (deferred : Bool) (lane : List LaneReturn) (s : State) : State :=
  waiting f (fun d => { d with lane := lane }) (composed0 (.transit ⟨0, 0⟩) deferred (some 0) none s)
/-- On a lane that was never high a byte sent in the window of the frame that ended at 72 answers it, at either end. -/
theorem answersWindow {s : State} {n : Nat} {v : Byte} (e : (s.head 0).lane = []) (b : v.getLsbD 0 = true)
    (g : 72 ≤ n) (r : n + 7 ≤ 272) : Answers s 0 72 ⟨n, v⟩ n v := by
  have before : ∀ u, u < n → laneHigh [⟨n, v⟩] u = false := fun u lt => by simp [laneHigh]; omega
  refine ⟨?_, Nat.le_refl n, fun i _ => ?_⟩ <;> rw [e, List.nil_append]
  · exact ⟨by simpa [laneHigh] using b, fun u k => before u (by omega), g,
      fun u _ lt k => absurd k (by simp [before u lt]), r⟩
  · simp [laneHigh]
/-- What is sent makes no acknowledgement whole. -/
theorem answersNot {s : State} {a : LaneReturn} (f : ∀ x ∈ (ackBegins ((s.head 0).lane ++ [a]) 72).toList, a.bit0 < x) :
    ∀ t b, ¬Answers s 0 72 a t b :=
  fun t _ k => absurd k.whole (Nat.not_le.2 (optional f t ((ackBegins_iff ..).2 k.begins)))
/-- High at 64, 70 and 71: with a byte at 72 the lane goes high again only after it has fallen low. -/
def early : LaneReturn := ⟨64, 0xC1⟩
theorem test_witness_LineFrameAnswered :
    (let s := inTransit (lineFrame false) false [] { printing .running ahead with tick := 272 }
     (s.head 0).link = .answerWait 72 ∧ (s.head 0).frame = some (lineFrame false) ∧
     (lineFrame false).body = .line .a ⟨0, 0⟩ line0.levels ∧ Answers s 0 72 ⟨72, 1⟩ 72 1 ∧
     Answers s 0 72 ⟨265, 3⟩ 265 3 ∧
     (s.chan (chanOf 0 .a)).slot = .transit ⟨0, 0⟩ ∧ chanState s (chanOf 0 .a) ≠ .deferred ∧ frozen s = false) ∧
    (∀ k ∈ [71, 266], ∀ t b, ¬Answers (inTransit (lineFrame false) false [] (printing .running ahead)) 0 72 ⟨k, 1⟩ t b) ∧
    (∀ t b, ¬Answers (inTransit (lineFrame false) false [early] (printing .running ahead)) 0 72 ⟨72, 1⟩ t b) ∧
    (∀ t b, ¬Answers (inTransit (lineFrame false) false [early] (printing .running ahead)) 0 72 ⟨72, 5⟩ t b) ∧
    Answers (inTransit (lineFrame false) false [early] (printing .running ahead)) 0 72 ⟨73, 1⟩ 73 1 ∧
    BeginsAck [⟨264, 1⟩] 72 264 ∧ 264 + 7 < 72 + 200 ∧
    (let s := inTransit (lineFrame false) true [] { atTarget .running with tick := 272 }
     chanState s (chanOf 0 .a) = .deferred ∧ (s.chan 0).next = some ⟨0, 0⟩ ∧ (s.chan 0).queue = [line0] ∧
     (s.chan 0).lastFire = some 0 ∧ ¬0 + periodOf s 0 ≤ max s.tick (265 + 7)) ∧
    (let s := withChan0 (fun ch => { ch with lastFire := none })
       (inTransit (lineFrame false) true [] { atTarget .running with tick := 272 })
     chanState s (chanOf 0 .a) = .deferred ∧ (s.chan 0).lastFire = none) ∧
    frozen (inTransit (lineFrame false) false [] (printing .halted ahead)) = true ∧ (lineFrame false).again = false ∧
    (lineFrame false).stale = false ∧ { lineFrame false with stale := true }.stale = true ∧
    { lineFrame false with withdrawn := true }.withdrawn = true ∧
    (1 : Byte).extractLsb' 1 2 = 0 ∧ (3 : Byte).extractLsb' 1 2 = 1 :=
  ⟨⟨by decide +kernel, by decide +kernel, by decide +kernel,
    answersWindow (by decide +kernel) (by decide) (by decide) (by decide),
    answersWindow (by decide +kernel) (by decide) (by decide) (by decide), by decide +kernel⟩,
   fun k h => answersNot ((by decide +kernel : ∀ k ∈ [71, 266], ∀ x ∈ (ackBegins [⟨k, 1⟩] 72).toList, k < x) k h),
   answersNot (by decide +kernel), answersNot (by decide +kernel),
   ⟨(ackBegins_iff ..).1 (by decide +kernel), by decide, by decide +kernel⟩,
   (ackBegins_iff ..).1 (by decide +kernel), by decide, by decide +kernel⟩
/-- R136: the line is shipped and fires at once. R197: a byte sent before the frame's end is thrown away, and the
bit of another at 74, after the lane has fallen low, is the bit 0 of an acknowledgement received at 81. -/
theorem test_answer :
    (let s := withChan0 (fun ch => { ch with lastFire := none })
       (inTransit (lineFrame false) true [] { atTarget .running with tick := 272 })
     after (.ackReceived 0 ⟨80, 1⟩) s none (fun t => (t.chan 0).lastFire)) = some 272 ∧
    (let s := inTransit (lineFrame false) false [early] { printing .running ahead with tick := 72 }
     after (.ackReceived 0 ⟨72, 5⟩) s .idle (fun t => (t.head 0).link) = .answerWait 72 ∧
     after (.ackTimeout 0) (inTransit (lineFrame false) false [early, ⟨72, 5⟩] s) .idle (fun t => (t.head 0).link) =
       .answerWait 72 ∧
     ownStep (inTransit (lineFrame false) false [early, ⟨72, 5⟩] { s with tick := 81 }) =
       some (.ackReceived 0 ⟨74, 1⟩)) := by decide +kernel
theorem test_witness_FailedLineFrameParksHead :
    (∀ f ∈ [lineFrame true, { lineFrame false with withdrawn := true }, { lineFrame true with stale := true }],
      (let s := inTransit f true [] { printing .running ahead with tick := 272 }
       (s.head 0).link = .answerWait 72 ∧ (s.head 0).frame = some f ∧ f.body = .line .a ⟨0, 0⟩ line0.levels ∧
       (s.head 0).service ≠ .parked)) ∧
    (∀ v ∈ [3, 5, 7],
      Answers (inTransit (lineFrame true) true [] (printing .running ahead)) 0 72 ⟨265, v⟩ 265 v) ∧
    (∀ lane ∈ [[], [⟨265, 1⟩]], ∀ b, BeginsAck lane 72 b → 72 + 200 ≤ b + 7) ∧
    ((withHead0 (fun d => { d with service := .parked, timer := some 100000 })
      (inTransit (lineFrame true) true [] (printing .running ahead))).head 0).service = .parked ∧
    (lineFrame true).again = true ∧ (lineFrame true).withdrawn = false ∧ (lineFrame true).stale = false ∧
    (3 : Byte).extractLsb' 1 2 = 1 ∧ (5 : Byte).extractLsb' 1 2 = 2 ∧ (7 : Byte).extractLsb' 1 2 = 3 :=
  ⟨by decide +kernel,
   fun v h => answersWindow (by decide +kernel) ((by decide : ∀ v ∈ [(3 : Byte), 5, 7], v.getLsbD 0 = true) v h)
     (by decide) (by decide),
   fun l h b k => optional ((by decide +kernel : ∀ l ∈ [[], [⟨265, 1⟩]], ∀ x ∈ (ackBegins l 72).toList, 72 + 200 ≤ x + 7) l h)
     b ((ackBegins_iff ..).2 k), by decide +kernel⟩
def configFrame0 : Frame :=
  { body := .config [(1, 5), (2, 10), (5, 6)], lanes := 4, begun := 0, withdrawn := false, again := false, forConfig := true, stale := false }
/-- Head 0, returning, waits for the answer to a frame of its configuration. -/
def configured (f : Frame) (used : Bool) : State :=
  waiting f (fun d => { d with service := .returning, config := some used, returnBand := some 0 })
    { printing .running ahead with tick := 272 }
/-- The count of the byte is 3, 2 and 0; bits 2:1 of 5 and 7 are 2 and 3. -/
theorem test_witness_ConfigurationAnswered :
    (∀ f ∈ [configFrame0, { configFrame0 with body := .query }], ∀ used ∈ [true, false],
      (let s := configured f used
       (s.head 0).link = .answerWait 72 ∧ (s.head 0).frame = some f ∧ f.stale = false ∧ f.forConfig = true ∧
       (s.head 0).config = some used ∧ (s.head 0).service ≠ .parked ∧ (findBand s 0).isSome = true)) ∧
    configFrame0.body = .config [(1, 5), (2, 10), (5, 6)] ∧
    (∀ v ∈ [25, 17, 3, 5, 7], Answers (configured configFrame0 false) 0 72 ⟨265, v⟩ 265 v) ∧
    ((configured configFrame0 false).head 0).lane = [] ∧
    (5 : Byte).extractLsb' 1 2 = 2 ∧ (7 : Byte).extractLsb' 1 2 = 3 ∧
    (25 : Byte).getLsbD 0 = true ∧ (25 : Byte).extractLsb' 1 2 = 0 ∧ min ((25 : Byte).extractLsb' 3 3).toNat 3 = 3 ∧
    (17 : Byte).extractLsb' 1 2 = 0 ∧ min ((17 : Byte).extractLsb' 3 3).toNat 3 < 3 ∧
    (3 : Byte).getLsbD 0 = true ∧ (3 : Byte).extractLsb' 1 2 = 1 :=
  ⟨by decide +kernel, rfl,
   fun v h => answersWindow (by decide +kernel)
     ((by decide : ∀ v ∈ [(25 : Byte), 17, 3, 5, 7], v.getLsbD 0 = true) v h) (by decide) (by decide), by decide +kernel⟩
theorem test_witness_ParkedHeadQueried :
    (let s := withHead0 (fun d => { d with service := .parked, timer := some 100000 }) (press .running false)
     (s.head 0).service = .parked ∧ (s.head 0).timer = some 100000 ∧ (s.head 0).queue = [] ∧ (s.head 0).frame = none) ∧
    (let s := queued .query (fun d => { d with service := .parked, timer := some 100000 }) (press .running false)
     (s.head 0).timer = some 100000 ∧ ∃ q ∈ (s.head 0).queue, q.kind = .query) ∧
    (let f : Frame := { lineFrame false with body := .query }
     let s := waiting f (fun d => { d with service := .parked, timer := some 100000 }) { press .running false with tick := 272 }
     (s.head 0).service = .parked ∧ (s.head 0).link = .answerWait 72 ∧ (s.head 0).frame = some f ∧ f.body = .query ∧
     f.stale = false ∧ f.forConfig = false ∧ (s.head 0).lane = [] ∧ Answers s 0 72 ⟨265, 1⟩ 265 1 ∧
     Answers s 0 72 ⟨72, 5⟩ 72 5) :=
  ⟨by decide +kernel, by decide +kernel, by decide +kernel, by decide +kernel, by decide +kernel, by decide +kernel,
   by decide +kernel, by decide +kernel, by decide +kernel,
   answersWindow (by decide +kernel) (by decide) (by decide) (by decide),
   answersWindow (by decide +kernel) (by decide) (by decide) (by decide)⟩

end Sys2Proof.Tests
end

/-! PROOFS. Web position and fire targets (chapter 1): the position's arithmetic, what an event brings, and the
three statements of BACKWARD_COUNT, ILLEGAL_TRANSITION and the comparison of P with a target. -/

namespace Sys2Proof.Machine

/-! ## The web position as a number of 2^-24 line (R4, R7) -/

theorem posNat_lt (p : Position) : posNat p < 2 ^ 56 := by
  have hline := p.line.isLt
  have hfrac := p.frac.isLt
  simp only [posNat, Config.fracUnit]
  omega

theorem posNat_posOfNat {n : Nat} (h : n < 2 ^ 56) : posNat (posOfNat n) = n := by
  have hline : n / 16777216 < 2 ^ 32 := by omega
  have hfrac : n % 16777216 < 2 ^ 24 := by omega
  simp only [posNat, posOfNat, Config.fracUnit, BitVec.toNat_ofNat, Nat.mod_eq_of_lt hline, Nat.mod_eq_of_lt hfrac]
  exact Nat.div_add_mod' n 16777216

@[simp] theorem posNat_posBackward (inc : Nat) (p : Position) : posNat (posBackward inc p) = posNat p - inc :=
  posNat_posOfNat ((Nat.sub_le _ _).trans_lt (posNat_lt p))

/-! ## Targets (R17) -/

theorem reached_iff (p : Position) (t : Nat) :
    reached p t = true ↔ t * 2 ^ 16 ≤ p.line.toNat * 2 ^ 24 + p.frac.toNat :=
  decide_eq_true_iff.trans (by simp [posNat, Config.fracUnit])

/-- P lies below 2^32 lines, so no sum of 2^48 eighth-bit lines is reached. -/
theorem reached_eq_false_of_le (p : Position) {t : Nat} (h : 2 ^ 48 ≤ t) : reached p t = false := by
  have hp := posNat_lt p
  simp only [reached, decide_eq_false_iff_not]
  omega

/-- Settles O18: R17's comparison, its bound, and the manual's example at both sides of the boundary. -/
theorem reachedComparesAtFullWidth : Obligations.ReachedComparesAtFullWidth :=
  ⟨fun p t => ⟨reached_iff p t, reached_eq_false_of_le p⟩, by decide, by decide⟩

/-! ## What an event brings (R190, R191) -/

theorem exists_eventBit_eq {i : Nat} (h : i < 9) : ∃ f : Event, eventBit f = i := by
  have all : ∀ j : Fin 9, ∃ f ∈ [Event.recordClosed, .readerSuspended, .engineHalted, .stoppedEvent, .productMissed,
      .headParked, .encoderError, .commandRejected, .writebackFailed], eventBit f = j := by decide
  obtain ⟨f, -, hf⟩ := all ⟨i, h⟩
  exact ⟨f, hf⟩

/-- Every one of the nine bits is an event's, so a common bit is a flag both set and enabled. -/
theorem irqOf_iff (events enables : BitVec 9) :
    irqOf events enables = true ↔
      ∃ f : Event, events.getLsbD (eventBit f) = true ∧ enables.getLsbD (eventBit f) = true := by
  constructor
  · intro h
    by_contra hnone
    have hzero : events &&& enables = 0#9 := by
      refine BitVec.eq_of_getLsbD_eq fun i hi => ?_
      obtain ⟨f, rfl⟩ := exists_eventBit_eq hi
      simpa using fun h1 h2 => hnone ⟨f, h1, h2⟩
    simp [irqOf, hzero] at h
  · rintro ⟨f, hset, henabled⟩
    have hbit : (events &&& enables).getLsbD (eventBit f) = true := by simp [hset, henabled]
    simp only [irqOf, bne_iff_ne]
    intro hzero
    simp [hzero] at hbit

@[simp] theorem raise_ctl (e : Event) (s : State) :
    (raise e s).ctl =
      { s.ctl with events := s.ctl.events ||| eventMask e
                   irq := irqOf (s.ctl.events ||| eventMask e) s.ctl.enables } :=
  setEvents_engine _ _ _

/-- A rise of the interrupt output posts one message, lost while the link is down. -/
theorem raise_port (e : Event) (s : State) :
    (raise e s).port =
      if (raise e s).ctl.irq && !s.ctl.irq && s.port.linkUp
        then { s.port with outbox := s.port.outbox ++ [.interrupt] } else s.port := by
  rw [raise_ctl]
  unfold raise
  rw [setEvents_spec]
  rfl

theorem raise_irq_iff (e : Event) (s : State) :
    (raise e s).ctl.irq = true ↔
      ∃ f : Event, (raise e s).ctl.events.getLsbD (eventBit f) = true ∧ s.ctl.enables.getLsbD (eventBit f) = true := by
  rw [raise_ctl]
  exact irqOf_iff _ _

theorem raise_onlyChanges (e : Event) (s : State) : OnlyChanges [.ctl, .port] s (raise e s) := by
  have hreads := raise_reads e s
  intro p hp
  cases p with
  | pending => exact hreads.pending
  | tick => exact hreads.tick
  | posn => exact hreads.posn
  | reader => exact raise_reader e s
  | win => exact hreads.win
  | layout => exact hreads.layout
  | maps => exact hreads.maps
  | chans => exact hreads.chans
  | heads => exact hreads.heads
  | port | ctl => simp at hp

/-! ## What commands leave alone, one after another -/

theorem OnlyChanges.trans {ps qs : List Part} {s t u : State} (h : OnlyChanges ps s t) (k : OnlyChanges qs t u) :
    OnlyChanges (ps ++ qs) s u := by
  intro p hp
  obtain ⟨hps, hqs⟩ := not_or.mp (mt List.mem_append.mpr hp)
  have hst := h p hps
  have htu := k p hqs
  cases p <;> exact htu.trans hst

theorem withPosn_onlyChanges (s : State) (x : PositionUnit) : OnlyChanges [.posn] s (s.withPosn x) := by
  intro p hp
  cases p with
  | posn => simp at hp
  | _ => rfl

/-! ## ILLEGAL_TRANSITION (R3) -/

theorem exec_illegalTransition (s : State) :
    exec .illegalTransition s = .next (raise .encoderError (setPair (!s.posn.encA, !s.posn.encB) s)) := rfl

/-- Settles O15: the raise's effects, over the state in which the decoder has taken the new pair. -/
theorem illegalTransitionRaisesError : Obligations.IllegalTransitionRaisesError := by
  intro s t
  have hctl : t.ctl = { s.ctl with events := s.ctl.events ||| 0x40#9, irq := t.ctl.irq } := by
    simp only [t, raise_ctl]
    rfl
  have honly : OnlyChanges [.posn, .ctl, .port] s t := (withPosn_onlyChanges s _).trans (raise_onlyChanges _ _)
  exact ⟨exec_illegalTransition s, (raise_reads _ _).posn, hctl, raise_irq_iff _ _, raise_port _ _, honly⟩

/-! ## BACKWARD_COUNT (R2, R7) -/

theorem exec_backwardCount_of_no_layout {s : State} (h : s.layout = none) :
    exec .backwardCount s = .next (setPair (tableBackward (pairOf s)) s) := by
  change execBackwardCount s = _
  simp [execBackwardCount, inverted, h]

theorem exec_backwardCount_of_layout {s : State} {l : Layout} (h : s.layout = some l) :
    exec .backwardCount s =
      .next (setPos (posBackward l.increment s.posn.pos)
        (setPair (if l.invert then tableForward (pairOf s) else tableBackward (pairOf s)) s)) := by
  change execBackwardCount s = _
  simp [execBackwardCount, inverted, h]

/-- Settles O14: the next state with and without a layout; P falls by INC because `posBackward` is exact. -/
theorem backwardCountMovesPosition : Obligations.BackwardCountMovesPosition := by
  intro s
  constructor
  · exact exec_backwardCount_of_no_layout
  · intro l hl
    exact ⟨posBackward l.increment s.posn.pos, _, posNat_posBackward _ _, rfl, exec_backwardCount_of_layout hl, rfl⟩

end Sys2Proof.Machine

/-! PROOFS. The sets of the Nozzle Map Store (5.1, 5.2): the ascending insertion, an operation one index at a time,
and the statement of ADD, REMOVE and REPLACE. -/

namespace Sys2Proof.Machine

/-! ## The ascending place (R88) -/

/-- Mathlib's sorted insertion, so its members and its length are the library's. -/
theorem insertAscending_eq_orderedInsert (i : Nat) (l : List Nat) :
    insertAscending i l = l.orderedInsert (· < ·) i := by
  induction l with
  | nil => rfl
  | cons x xs ih => simp only [insertAscending, List.orderedInsert_cons, ih]

@[simp] theorem mem_insertAscending {i x : Nat} {l : List Nat} : x ∈ insertAscending i l ↔ x = i ∨ x ∈ l := by
  rw [insertAscending_eq_orderedInsert, List.mem_orderedInsert]

@[simp] theorem length_insertAscending (i : Nat) (l : List Nat) : (insertAscending i l).length = l.length + 1 := by
  rw [insertAscending_eq_orderedInsert, List.orderedInsert_length]

/-- Mathlib's `List.Pairwise.orderedInsert` asks for a total relation; here the index is not in the list. -/
theorem pairwise_insertAscending {i : Nat} {l : List Nat} (hl : l.Pairwise (· < ·)) (hi : i ∉ l) :
    (insertAscending i l).Pairwise (· < ·) := by
  induction l with
  | nil => exact List.pairwise_singleton _ i
  | cons x xs ih =>
    obtain ⟨hx, hxs⟩ := List.pairwise_cons.mp hl
    obtain ⟨hix, hixs⟩ := not_or.mp (mt List.mem_cons.mpr hi)
    rw [insertAscending]
    split
    next hlt =>
      refine List.pairwise_cons.mpr ⟨fun y hy => ?_, hl⟩
      rcases List.mem_cons.mp hy with rfl | hy
      · exact hlt
      · exact hlt.trans (hx y hy)
    next hge =>
      refine List.pairwise_cons.mpr ⟨fun y hy => ?_, ih hxs hixs⟩
      rcases mem_insertAscending.mp hy with rfl | hy
      · omega
      · exact hx y hy

/-! ## ADD of one index (R88) -/

theorem addIndex_eq (limit : Nat) (r : EditResult) (i : Nat) :
    addIndex limit r i =
      if limit ≤ i then { r with ignored := true }
      else if i ∈ r.set then r
      else if r.set.length < 128 then { r with set := insertAscending i r.set }
      else { r with capacity := true } :=
  if_congr Iff.rfl rfl (if_congr List.contains_iff_mem rfl rfl)

@[simp] theorem addIndex_ignored (limit : Nat) (r : EditResult) (i : Nat) :
    (addIndex limit r i).ignored = (r.ignored || decide (limit ≤ i)) := by
  rw [addIndex_eq]
  split_ifs with hlimit <;> simp [hlimit]

theorem addIndex_length_le (limit : Nat) (r : EditResult) (i : Nat) :
    (addIndex limit r i).set.length ≤ r.set.length + 1 := by
  rw [addIndex_eq]
  split_ifs <;> simp

theorem addIndex_capacity_of_room {r : EditResult} (h : r.set.length < 128) (limit i : Nat) :
    (addIndex limit r i).capacity = r.capacity := by
  rw [addIndex_eq]
  split_ifs <;> rfl

/-! ## An operation, by its last index -/

theorem applyEdit_nil (op : EditOp) (limit : Nat) (set : List Nat) :
    applyEdit op limit [] set =
      { set := if op = .replace then [] else set, ignored := false, capacity := false } := by
  cases op <;> rfl

theorem applyEdit_add_concat (limit : Nat) (is : List Nat) (i : Nat) (set : List Nat) :
    applyEdit .add limit (is ++ [i]) set = addIndex limit (applyEdit .add limit is set) i :=
  List.foldl_concat ..

theorem applyEdit_remove_concat (limit : Nat) (is : List Nat) (i : Nat) (set : List Nat) :
    applyEdit .remove limit (is ++ [i]) set = removeIndex limit (applyEdit .remove limit is set) i :=
  List.foldl_concat ..

theorem applyEdit_replace (limit : Nat) (is set : List Nat) :
    applyEdit .replace limit is set = applyEdit .add limit is [] := rfl

/-! ## ADD of a record's indices (R88) -/

theorem applyEdit_add_ignored (limit : Nat) (is set : List Nat) :
    (applyEdit .add limit is set).ignored = is.any fun i => decide (limit ≤ i) := by
  induction is using List.reverseRecOn with
  | nil => rfl
  | append_singleton is i ih => simp [applyEdit_add_concat, ih]

theorem applyEdit_add_length_le (limit : Nat) (is set : List Nat) :
    (applyEdit .add limit is set).set.length ≤ set.length + is.length := by
  induction is using List.reverseRecOn with
  | nil => exact Nat.le_refl _
  | append_singleton is i ih =>
    have hstep := addIndex_length_le limit (applyEdit .add limit is set) i
    rw [applyEdit_add_concat, List.length_append, List.length_singleton]
    omega

/-- While the set and the indices together are 128 at most, the set is below 128 before every one of them. -/
theorem applyEdit_add_capacity_of_room (limit : Nat) {is set : List Nat} (h : set.length + is.length ≤ 128) :
    (applyEdit .add limit is set).capacity = false := by
  induction is using List.reverseRecOn with
  | nil => rfl
  | append_singleton is i ih =>
    rw [List.length_append, List.length_singleton] at h
    have hroom : (applyEdit .add limit is set).set.length < 128 := by
      have := applyEdit_add_length_le limit is set
      omega
    rw [applyEdit_add_concat, addIndex_capacity_of_room hroom]
    exact ih (by omega)

/-! ## REMOVE of a record's indices (R89) -/

/-- An index at or above the limit is in no set, so leaving it in place takes nothing from what is listed. -/
theorem removeIndex_filter {limit : Nat} {set : List Nat} (hset : ∀ x ∈ set, x < limit) (is : List Nat) (i : Nat)
    (ignored capacity : Bool) :
    removeIndex limit { set := set.filter fun x => decide (x ∉ is), ignored, capacity } i =
      { set := set.filter fun x => decide (x ∉ is ++ [i]), ignored := ignored || decide (limit ≤ i), capacity } := by
  unfold removeIndex
  split
  next hlimit =>
    have hkeep : (set.filter fun x => decide (x ∉ is ++ [i])) = set.filter fun x => decide (x ∉ is) := by
      refine List.filter_congr fun x hx => ?_
      have hne : x ≠ i := ((hset x hx).trans_le hlimit).ne
      simp [hne]
    rw [hkeep, decide_eq_true hlimit, Bool.or_true]
  next hlimit =>
    simp [List.filter_filter, hlimit, and_comm, not_or]

theorem applyEdit_remove {limit : Nat} {set : List Nat} (hset : ∀ x ∈ set, x < limit) (is : List Nat) :
    applyEdit .remove limit is set =
      { set := set.filter fun x => decide (x ∉ is), ignored := is.any fun i => decide (limit ≤ i), capacity := false } := by
  induction is using List.reverseRecOn with
  | nil => simp [applyEdit_nil]
  | append_singleton is i ih => rw [applyEdit_remove_concat, ih, removeIndex_filter hset]; simp

/-- Settles O41: ADD by its last index, the ascending place, and REMOVE and REPLACE by induction on the indices. -/
theorem editOperations : Obligations.EditOperations := by
  refine ⟨fun limit is i set => ⟨applyEdit_nil .add limit set, ?add⟩,
    fun i set => ⟨fun x => mem_insertAscending, pairwise_insertAscending⟩,
    fun limit is set hset => ⟨applyEdit_remove hset is, applyEdit_replace limit is set,
      fun hlen => ⟨?capacity, applyEdit_add_ignored limit is []⟩, congrArg EditResult.set (applyEdit_nil .replace limit set),
      congrArg EditResult.set (applyEdit_nil .add limit set), congrArg EditResult.set (applyEdit_nil .remove limit set)⟩⟩
  case add => rw [applyEdit_add_concat, addIndex_eq]
  case capacity =>
    have hroom : ([] : List Nat).length + is.length ≤ 128 := by rw [List.length_nil]; omega
    exact applyEdit_add_capacity_of_room limit hroom

end Sys2Proof.Machine

/-! PROOFS. Line composition (6.3, 6.5): the line a band line reads from its source, the levels of its columns,
and the seam's threshold and rescue. -/

namespace Sys2Proof.Machine

/-! ## The source line (R106, R107) -/

theorem sourceLine_of_tile_one {e : PlaneSource} (h : e.tile = 1) (k : Nat) : sourceLine e k = 0 := by
  simp [sourceLine, h, Nat.mod_one]

/-- An address holds the source line only times STRIDE: a TILE of 1 fixes the line, a STRIDE of 0 the product. -/
theorem fetchAddr_congr_line {e : PlaneSource} (h : e.tile = 1 ∨ e.stride = 0) (k j col : Nat) :
    fetchAddr e k col = fetchAddr e j col := by
  have hoffset : sourceLine e k * e.stride.toNat = sourceLine e j * e.stride.toNat := by
    obtain htile | hstride := h
    · rw [sourceLine_of_tile_one htile, sourceLine_of_tile_one htile]
    · simp [hstride]
  rw [fetchAddr, fetchAddr, hoffset]

/-! ## Bytes and levels of the columns (R107, R108) -/

/-- A line fetch ends with the byte of the head's last column. -/
theorem byteIndex_lt_fetchLen {col n x : Nat} (h : x < col + n) : x / 4 - col / 4 < fetchLen col n := by
  have hlast : x / 4 ≤ (col + n - 1) / 4 := Nat.div_le_div_right (by omega)
  rw [fetchLen]
  omega

/-- A line fetch begins with the byte of the head's first column, so column `x` finds the line's byte `x / 4`. -/
theorem fetched_getD {col n x : Nat} (line : List Byte) (hfirst : col ≤ x) (hlast : x < col + n) :
    ((line.drop (col / 4)).take (fetchLen col n)).getD (x / 4 - col / 4) 0 = line.getD (x / 4) 0 := by
  have hbyte : col / 4 + (x / 4 - col / 4) = x / 4 := Nat.add_sub_cancel' (Nat.div_le_div_right hfirst)
  simp only [List.getD_eq_getElem?_getD, List.getElem?_take_of_lt (byteIndex_lt_fetchLen hlast), List.getElem?_drop,
    hbyte]

theorem sourceLevel_eq (bytes : List Byte) (col x : Nat) :
    sourceLevel bytes col x = (bytes.getD (x / 4 - col / 4) 0).toNat / 2 ^ (2 * (x % 4)) % 4 := by
  rw [sourceLevel, BitVec.extractLsb'_toNat, Nat.shiftRight_eq_div_pow]

theorem sourceLevel_le (bytes : List Byte) (col x : Nat) : sourceLevel bytes col x ≤ 3 :=
  Nat.le_of_lt_succ (BitVec.isLt _)

/-- Settles O50: R106's line by its definition, one address for every line, and the column's byte in the fetch. -/
theorem sourceLinesAndLevels : Obligations.SourceLinesAndLevels := by
  refine ⟨fun e k hk => ⟨rfl, ?nowrap⟩, fun e k j col h => fetchAddr_congr_line h k j col,
    fun line col n x hfirst hlast => ⟨?level, sourceLevel_le _ col x⟩⟩
  case nowrap =>
    have hwidth := e.first.isLt
    omega
  case level => rw [sourceLevel_eq, fetched_getD line hfirst hlast]

/-! ## The threshold along an overlap (R116) -/

/-- One column on, the dividend loses 256, and so at least the divisor: the quotient loses at least 1. -/
theorem seamThreshold_succ_lt {w j : Nat} (hw : w ≤ 64) (hj : j < w) :
    seamThreshold w (j + 1) < seamThreshold w j := by
  have hdividend : 256 * (w - (j + 1)) + (w + 1) ≤ 256 * (w - j) := by omega
  calc 256 * (w - (j + 1)) / (w + 1)
      < 256 * (w - (j + 1)) / (w + 1) + 1 := Nat.lt_succ_self _
    _ = (256 * (w - (j + 1)) + (w + 1)) / (w + 1) := (Nat.add_div_right _ w.succ_pos).symm
    _ ≤ 256 * (w - j) / (w + 1) := Nat.div_le_div_right hdividend

theorem three_le_seamThreshold {w j : Nat} (hw : w ≤ 64) (hj : j < w) : 3 ≤ seamThreshold w j := by
  rw [seamThreshold, Nat.le_div_iff_mul_le w.succ_pos]
  omega

theorem seamThreshold_le (w j : Nat) : seamThreshold w j ≤ 255 := by
  rw [seamThreshold, ← Nat.lt_succ_iff, Nat.div_lt_iff_lt_mul w.succ_pos]
  omega

theorem leftOwns_iff (tile : Vector Byte 256) (n : Nat) (left right : HeadEntry) (x : Nat) :
    leftOwns tile n left right x = true ↔
      tileValue tile n x < seamThreshold (overlapWidth left right) (x - right.firstColumn) :=
  decide_eq_true_iff

theorem leftOwns_eq_false_of_tileValue_eq {tile : Vector Byte 256} {n x : Nat} (h : tileValue tile n x = 255)
    (left right : HeadEntry) : leftOwns tile n left right x = false := by
  have hle := seamThreshold_le (overlapWidth left right) (x - right.firstColumn)
  rw [Bool.eq_false_iff, ne_eq, leftOwns_iff]
  omega

theorem leftOwns_of_tileValue_eq_zero {tile : Vector Byte 256} {n x : Nat} {left right : HeadEntry}
    (h : tileValue tile n x = 0) (hw : overlapWidth left right ≤ 64)
    (hj : x - right.firstColumn < overlapWidth left right) : leftOwns tile n left right x = true := by
  have hle := three_le_seamThreshold hw hj
  rw [leftOwns_iff]
  omega

/-! ## The owner of an overlap column (R117, R118) -/

theorem ownsSeam_of_partner_not_serving (tile : Vector Byte 256) (n : Nat) (self : SeamHead) {other : SeamHead}
    (h : other.serves = false) (selfLeft : Bool) (x : Nat) : ownsSeam tile n self other selfLeft x = true := by
  simp [ownsSeam, h]

theorem ownsSeam_left (tile : Vector Byte 256) (n : Nat) (left : SeamHead) {right : SeamHead}
    (h : right.serves = true) (x : Nat) :
    ownsSeam tile n left right true x =
      if leftOwns tile n left.entry right.entry x then !rescued left right x else rescued right left x := by
  simp [ownsSeam, h]

theorem ownsSeam_right (tile : Vector Byte 256) (n : Nat) {left : SeamHead} (right : SeamHead)
    (h : left.serves = true) (x : Nat) :
    ownsSeam tile n right left false x =
      if leftOwns tile n left.entry right.entry x then rescued left right x else !rescued right left x := by
  cases hown : leftOwns tile n left.entry right.entry x <;> simp [ownsSeam, h, hown]

theorem rescued_iff (owner other : SeamHead) (x : Nat) :
    rescued owner other x = true ↔ deadAt owner x = true ∧ deadAt other x = false := by
  simp [rescued]

theorem ownsSeam_left_iff (tile : Vector Byte 256) (n : Nat) (left : SeamHead) {right : SeamHead}
    (h : right.serves = true) (x : Nat) :
    ownsSeam tile n left right true x = true ↔
      (leftOwns tile n left.entry right.entry x = true ∧ ¬(deadAt left x = true ∧ deadAt right x = false)) ∨
      (leftOwns tile n left.entry right.entry x = false ∧ deadAt right x = true ∧ deadAt left x = false) := by
  rw [ownsSeam_left tile n left h, ← rescued_iff left right, ← rescued_iff right left]
  cases leftOwns tile n left.entry right.entry x <;> simp

/-- Both heads decide the column by the same rule (R119), so what one owns the other does not. -/
theorem ownsSeam_right_eq_not_left (tile : Vector Byte 256) (n : Nat) {left right : SeamHead}
    (hleft : left.serves = true) (hright : right.serves = true) (x : Nat) :
    ownsSeam tile n right left false x = !ownsSeam tile n left right true x := by
  rw [ownsSeam_left tile n left hright, ownsSeam_right tile n right hleft]
  cases leftOwns tile n left.entry right.entry x <;> simp

/-- Settles O51: the threshold's bounds decide the tile values 0 and 255, and the two heads' decisions exclude each
other. -/
theorem seamColumnsOwnedOnce : Obligations.SeamColumnsOwnedOnce := by
  intro tile n left right x w j v l _ hw hfirst hlast
  have hj : j < w := by omega
  exact ⟨leftOwns_iff tile n left.entry right.entry x, seamThreshold_succ_lt hw hj, three_le_seamThreshold hw hj,
    seamThreshold_le w j, fun hv => leftOwns_eq_false_of_tileValue_eq hv left.entry right.entry,
    fun hv => leftOwns_of_tileValue_eq_zero hv hw hj,
    fun hleft hright => ⟨ownsSeam_left_iff tile n left hright x, ownsSeam_right_eq_not_left tile n hleft hright x⟩,
    fun hright => ownsSeam_of_partner_not_serving tile n left hright true x,
    fun hleft => ownsSeam_of_partner_not_serving tile n right hleft false x⟩

end Sys2Proof.Machine

/-! PROOFS. What the operations leave alone: one lemma per setter and shared operation of the channels and links, in
the terms of `OnlyChanges`, and what a FROZEN engine keeps (chapters 6 to 8). -/

namespace Sys2Proof.Machine

/-! ## Single changes -/

theorem OnlyChanges.refl (ps : List Part) (s : State) : OnlyChanges ps s s := by
  intro p _
  cases p <;> rfl

theorem OnlyChanges.mono {ps qs : List Part} {s t : State} (h : OnlyChanges ps s t) (hsub : ps ⊆ qs) :
    OnlyChanges qs s t :=
  fun p hp => h p fun hmem => hp (hsub hmem)

/-- Two changes after one another, both within the parts listed. -/
theorem OnlyChanges.trans_same {ps : List Part} {s t u : State} (h : OnlyChanges ps s t) (k : OnlyChanges ps t u) :
    OnlyChanges ps s u :=
  (h.trans k).mono (List.append_subset.2 ⟨List.Subset.refl _, List.Subset.refl _⟩)

theorem OnlyChanges.ite {ps : List Part} {s t u : State} {p : Prop} [Decidable p] (ht : p → OnlyChanges ps s t)
    (hu : ¬p → OnlyChanges ps s u) : OnlyChanges ps s (if p then t else u) := by
  split
  next h => exact ht h
  next h => exact hu h

theorem OnlyChanges.foldl {α : Type} {ps : List Part} (f : State → α → State)
    (hf : ∀ s a, OnlyChanges ps s (f s a)) (l : List α) (s : State) : OnlyChanges ps s (l.foldl f s) := by
  induction l generalizing s with
  | nil => exact .refl _ s
  | cons a l ih => exact (hf s a).trans_same (ih _)

theorem withTick_onlyChanges (s : State) (x : Nat) : OnlyChanges [.tick] s (s.withTick x) := by
  intro p hp
  cases p with
  | tick => simp at hp
  | _ => rfl

theorem withReader_onlyChanges (s : State) (x : Reader) : OnlyChanges [.reader] s (s.withReader x) := by
  intro p hp
  cases p with
  | reader => simp at hp
  | _ => rfl

theorem withWin_onlyChanges (s : State) (x : Window) : OnlyChanges [.win] s (s.withWin x) := by
  intro p hp
  cases p with
  | win => simp at hp
  | _ => rfl

theorem withMaps_onlyChanges (s : State) (x : Vector NozzleMap 16) : OnlyChanges [.maps] s (s.withMaps x) := by
  intro p hp
  cases p with
  | maps => simp at hp
  | _ => rfl

theorem withPort_onlyChanges (s : State) (x : MemoryPort) : OnlyChanges [.port] s (s.withPort x) := by
  intro p hp
  cases p with
  | port => simp at hp
  | _ => rfl

theorem withCtl_onlyChanges (s : State) (x : EngineControl) : OnlyChanges [.ctl] s (s.withCtl x) := by
  intro p hp
  cases p with
  | ctl => simp at hp
  | _ => rfl

theorem setChan_onlyChanges (s : State) (c : ChanId) (x : Channel) : OnlyChanges [.chans] s (s.setChan c x) := by
  intro p hp
  cases p with
  | chans => simp at hp
  | _ => rfl

theorem setHead_onlyChanges (s : State) (h : HeadId) (x : HeadLink) : OnlyChanges [.heads] s (s.setHead h x) := by
  intro p hp
  cases p with
  | heads => simp at hp
  | _ => rfl

/-! ## The channels' operations -/

theorem addRequest_onlyChanges (h : HeadId) (k : RequestKind) (s : State) :
    OnlyChanges [.heads] s (addRequest h k s) :=
  setHead_onlyChanges _ _ _

theorem requestShip_onlyChanges (c : ChanId) (s : State) : OnlyChanges [.chans, .heads] s (requestShip c s) :=
  .ite (fun _ => (setChan_onlyChanges _ _ _).trans (addRequest_onlyChanges _ _ _)) fun _ => .refl _ s

theorem withdrawRequest_onlyChanges (c : ChanId) (s : State) :
    OnlyChanges [.chans, .heads] s (withdrawRequest c s) :=
  .ite (fun _ => (setChan_onlyChanges _ _ _).trans (setHead_onlyChanges _ _ _)) fun _ => .refl _ s

theorem withdrawTransit_onlyChanges (c : ChanId) (s : State) : OnlyChanges [.heads] s (withdrawTransit c s) := by
  unfold withdrawTransit
  split
  · exact setHead_onlyChanges _ _ _
  · exact .refl _ s
  · exact .refl _ s

theorem adjustCompose_onlyChanges (c : ChanId) (s : State) : OnlyChanges [.chans] s (adjustCompose c s) := by
  unfold adjustCompose
  split
  · exact .ite (fun _ => setChan_onlyChanges _ _ _) fun _ => .refl _ s
  · exact .refl _ s

theorem releasePins_onlyChanges (s : State) : OnlyChanges [.maps] s (releasePins s) := withMaps_onlyChanges _ _

theorem mapBand_onlyChanges (id : Nat) (f : BandEntry → BandEntry) (s : State) :
    OnlyChanges [.win] s (mapBand id f s) :=
  withWin_onlyChanges _ _

theorem linePass_onlyChanges (c : ChanId) (o : PassOutcome) (s : State) :
    OnlyChanges [.win, .chans, .maps] s (linePass c o s) := by
  unfold linePass
  split
  · exact .refl _ s
  · refine OnlyChanges.mono ((((mapBand_onlyChanges _ _ _).trans (setChan_onlyChanges _ _ _)).trans
      (adjustCompose_onlyChanges _ _)).trans (releasePins_onlyChanges _)) ?_
    decide

theorem dropLive_onlyChanges (c : ChanId) (s : State) : OnlyChanges [.port, .chans] s (dropLive c s) :=
  (withPort_onlyChanges _ _).trans (setChan_onlyChanges _ _ _)

theorem fire_onlyChanges (c : ChanId) (l : ComposedLine) (s : State) :
    OnlyChanges [.win, .chans, .maps] s (fire c l s) := by
  refine OnlyChanges.mono ((setChan_onlyChanges _ _ _).trans (linePass_onlyChanges _ _ _)) ?_
  decide

theorem discard_onlyChanges (x : Nat) (s : State) : OnlyChanges [.port] s (discard x s) := withPort_onlyChanges _ _

/-! ## A FROZEN engine (R146): no crossing, no ship request, and Engine Control as it stands -/

/-- HALTED and ABORTING are no states in which channels work. -/
theorem working_eq_false_of_frozen {s : State} (h : frozen s = true) : working s = false := by
  unfold frozen at h
  unfold working
  cases he : s.ctl.engine <;> simp_all

theorem frozen_of_halted {s : State} (h : s.ctl.engine = .halted) : frozen s = true := by simp [frozen, h]

theorem frozen_congr {s t : State} (h : t.ctl = s.ctl) : frozen t = frozen s := by rw [frozen, h, frozen]

theorem chanState_of_frozen {s : State} (h : frozen s = true) (c : ChanId) : chanState s c = .frozen := by
  simp [chanState, h]

theorem watched_of_frozen {s : State} (h : frozen s = true) (c : ChanId) : watched s c = none := by
  simp [watched, chanState_of_frozen h]

theorem requestShip_of_not_working {s : State} (h : working s = false) (c : ChanId) : requestShip c s = s := by
  simp [requestShip, mayRequestShip, h]

theorem settle_of_frozen {s : State} (h : frozen s = true) (c : ChanId) : settle c s = s := by
  have hloop : ∀ n, settleLoop n c s = s := by
    intro n
    cases n with
    | zero => rfl
    | succ n => simp [settleLoop, watched_of_frozen h]
  rw [settle, hloop, requestShip_of_not_working (working_eq_false_of_frozen h)]

theorem halt_of_frozen {s : State} (h : frozen s = true) (cause : HaltCause) : halt cause s = s := by
  simp [halt, working_eq_false_of_frozen h]

/-- A flush without the starvation that follows a discarded deferred line. -/
def flushed (c : ChanId) (s : State) : State :=
  let s1 := dropLive c (withdrawRequest c (withdrawTransit c s))
  adjustCompose c (s1.setChan c
    { s1.chan c with
      queue := flushedQueue (s1.chan c), slot := flushedSlot (s1.chan c).slot, compose := flushPlace s c })

theorem flush_eq (c : ChanId) (s : State) :
    flush c s =
      if ((flushed c s).chan c).deferred && !nextShipped ((flushed c s).chan c) && !frozen (flushed c s)
      then settle c (starve c (flushed c s)) else flushed c s := rfl

theorem flushed_onlyChanges (c : ChanId) (s : State) : OnlyChanges [.chans, .heads, .port] s (flushed c s) := by
  refine OnlyChanges.mono (((((withdrawTransit_onlyChanges c s).trans (withdrawRequest_onlyChanges c _)).trans
    (dropLive_onlyChanges c _)).trans (setChan_onlyChanges _ c _)).trans (adjustCompose_onlyChanges c _)) ?_
  decide

theorem flushed_ctl (c : ChanId) (s : State) : (flushed c s).ctl = s.ctl :=
  flushed_onlyChanges c s .ctl (by decide)

theorem flush_of_frozen {s : State} (h : frozen s = true) (c : ChanId) : flush c s = flushed c s := by
  have hf : frozen (flushed c s) = true := by rw [frozen_congr (flushed_ctl c s), h]
  simp [flush_eq, hf]

/-- A parking head's channel without what settles after it. -/
def emptied (c : ChanId) (s : State) : State :=
  let s1 := withdrawRequest c (withdrawTransit c s)
  s1.setChan c { s1.chan c with queue := [], slot := .empty }

theorem parkChannel_eq (c : ChanId) (s : State) :
    parkChannel c s =
      settle c (if ((emptied c s).chan c).deferred && !frozen (emptied c s)
        then linePass c (.skipped true) (emptied c s) else emptied c s) := rfl

theorem emptied_onlyChanges (c : ChanId) (s : State) : OnlyChanges [.chans, .heads] s (emptied c s) := by
  refine OnlyChanges.mono (((withdrawTransit_onlyChanges c s).trans (withdrawRequest_onlyChanges c _)).trans
    (setChan_onlyChanges _ c _)) ?_
  decide

theorem emptied_ctl (c : ChanId) (s : State) : (emptied c s).ctl = s.ctl := emptied_onlyChanges c s .ctl (by decide)

theorem parkChannel_of_frozen {s : State} (h : frozen s = true) (c : ChanId) : parkChannel c s = emptied c s := by
  have hf : frozen (emptied c s) = true := by rw [frozen_congr (emptied_ctl c s), h]
  simp [parkChannel_eq, hf, settle_of_frozen]

/-- A run of operations that each leave a FROZEN engine's control as it is leaves it as it is. -/
theorem foldl_ctl_of_frozen {α : Type} (f : State → α → State)
    (hf : ∀ s a, frozen s = true → (f s a).ctl = s.ctl) (l : List α) (s : State) (h : frozen s = true) :
    (l.foldl f s).ctl = s.ctl := by
  induction l generalizing s with
  | nil => rfl
  | cons a l ih =>
    have ha := hf s a h
    exact (ih _ (by rw [frozen_congr ha, h])).trans ha

theorem foldl_flush_ctl_of_frozen (l : List ChanId) {s : State} (h : frozen s = true) :
    (l.foldl (fun s c => flush c s) s).ctl = s.ctl :=
  foldl_ctl_of_frozen _ (fun s c hs => by rw [flush_of_frozen hs, flushed_ctl]) l s h

theorem park_cause_of_frozen {s : State} (hs : frozen s = true) (h : HeadId) (linkCause : Bool) :
    (park h linkCause s).ctl.cause = s.ctl.cause := by
  unfold park
  split
  · rfl
  · dsimp only
    generalize hs1 : s.setHead h (parkedLink linkCause s.tick (s.head h)) = s1
    have h1 : s1.ctl = s.ctl := by rw [← hs1]; rfl
    have h2 : ((headChans s1.layout h).foldl (fun s c => parkChannel c s) s1).ctl = s1.ctl :=
      foldl_ctl_of_frozen _ (fun s c hs => by rw [parkChannel_of_frozen hs, emptied_ctl]) _ _
        (by rw [frozen_congr h1, hs])
    have h3 := foldl_flush_ctl_of_frozen
      (partnerChans ((headChans s1.layout h).foldl (fun s c => parkChannel c s) s1) h)
      (s := (headChans s1.layout h).foldl (fun s c => parkChannel c s) s1) (by rw [frozen_congr (h2.trans h1), hs])
    rw [raise_ctl]
    show _ = s.ctl.cause
    rw [h3, h2, h1]

end Sys2Proof.Machine

/-! PROOFS. The laws of the part, kept: the relations that say what a command keeps, with one rule for each kind of
change, so that a command's proof names its changes in order. -/

namespace Sys2Proof.Machine

/-- From `s` to `t` every law of the part but that of a suspension is kept, and the queue is as it was. -/
structure Keeps (s t : State) : Prop where
  pending : t.pending = s.pending
  productQueue : ProductQueueLaw s → ProductQueueLaw t
  window : WindowLaw s → WindowLaw t
  numbering : NumberingLaw s → NumberingLaw t
  pageOrder : PageOrderLaw s → PageOrderLaw t
  interrupt : InterruptLaw s → InterruptLaw t
  lineQueues : LineQueueLaw s → LineQueueLaw t
  bandCounts : BandCountLaw s → BandCountLaw t
  nozzleSets : NozzleSetLaw s → NozzleSetLaw t
  addresses : RecordAddressLaw s → RecordAddressLaw t
  services : ServiceLaw s → ServiceLaw t

/-- From `s` to `t` the parts that a single command each may change are as they were (R4, R24, R66, R191). -/
structure Frames (s t : State) : Prop where
  pos : t.posn.pos = s.posn.pos
  layout : t.layout = s.layout
  enables : t.ctl.enables = s.ctl.enables
  listHead : t.reader.listHead = s.reader.listHead

/-- A HALTED engine stays HALTED with its cause (R184). -/
def HaltHolds (s t : State) : Prop :=
  s.ctl.engine = .halted → t.ctl.engine = .halted ∧ t.ctl.cause = s.ctl.cause

/-- What every command keeps but the few that have a part of the state of their own to change. -/
structure Steps (s t : State) : Prop extends Keeps s t, Frames s t where
  suspension : SuspensionLaw s → SuspensionLaw t
  halted : HaltHolds s t

theorem Keeps.refl (s : State) : Keeps s s := ⟨rfl, id, id, id, id, id, id, id, id, id, id⟩

theorem Keeps.trans {s t u : State} (h : Keeps s t) (k : Keeps t u) : Keeps s u where
  pending := k.pending.trans h.pending
  productQueue x := k.productQueue (h.productQueue x)
  window x := k.window (h.window x)
  numbering x := k.numbering (h.numbering x)
  pageOrder x := k.pageOrder (h.pageOrder x)
  interrupt x := k.interrupt (h.interrupt x)
  lineQueues x := k.lineQueues (h.lineQueues x)
  bandCounts x := k.bandCounts (h.bandCounts x)
  nozzleSets x := k.nozzleSets (h.nozzleSets x)
  addresses x := k.addresses (h.addresses x)
  services x := k.services (h.services x)

theorem Frames.refl (s : State) : Frames s s := ⟨rfl, rfl, rfl, rfl⟩

theorem Frames.trans {s t u : State} (h : Frames s t) (k : Frames t u) : Frames s u where
  pos := k.pos.trans h.pos
  layout := k.layout.trans h.layout
  enables := k.enables.trans h.enables
  listHead := k.listHead.trans h.listHead

theorem HaltHolds.refl (s : State) : HaltHolds s s := fun h => ⟨h, rfl⟩

theorem HaltHolds.trans {s t u : State} (h : HaltHolds s t) (k : HaltHolds t u) : HaltHolds s u := fun e => by
  obtain ⟨he, hc⟩ := h e
  obtain ⟨ke, kc⟩ := k he
  exact ⟨ke, kc.trans hc⟩

theorem HaltHolds.of_ctl {s t : State} (h : t.ctl = s.ctl) : HaltHolds s t := fun e => by rw [h]; exact ⟨e, rfl⟩

theorem Steps.refl (s : State) : Steps s s :=
  { Keeps.refl s, Frames.refl s with suspension := id, halted := .refl s }

theorem Steps.trans {s t u : State} (h : Steps s t) (k : Steps t u) : Steps s u :=
  { h.toKeeps.trans k.toKeeps, h.toFrames.trans k.toFrames with
    suspension := fun x => k.suspension (h.suspension x)
    halted := h.halted.trans k.halted }

/-- The last change first, so that the state before it is read off the goal. -/
theorem Steps.after {s t u : State} (k : Steps t u) (h : Steps s t) : Steps s u := h.trans k

theorem Steps.ite {s t u : State} {p : Prop} [Decidable p] (ht : p → Steps s t) (hu : ¬p → Steps s u) :
    Steps s (if p then t else u) := by
  split
  next h => exact ht h
  next h => exact hu h

/-! ## The channels' work -/

theorem Keeps.of_runs {s t : State} (h : Runs s t) : Keeps s t :=
  ⟨h.pending, h.productQueueLaw, h.windowLaw, h.numberingLaw, h.pageOrderLaw, h.irq, h.queues, h.bandCountLaw,
    h.nozzleSetLaw, h.recordAddressLaw, h.service⟩

theorem Frames.of_runs {s t : State} (h : Runs s t) : Frames s t where
  pos := by rw [h.posn]
  layout := h.layout
  enables := h.kept.1
  listHead := by rw [h.reader]

/-- Work that leaves a FROZEN engine its cause. -/
theorem Steps.of_runs {s t : State} (h : Runs s t) (hcause : frozen s = true → t.ctl.cause = s.ctl.cause) :
    Steps s t :=
  { Keeps.of_runs h, Frames.of_runs h with
    suspension := h.suspensionLaw
    halted := fun e => ⟨h.engine.elim (fun k => k.trans e) id, hcause (frozen_of_halted e)⟩ }

/-- Work that leaves Engine Control alone. -/
theorem Steps.of_runs_ctl {s t : State} (h : Runs s t) (hctl : t.ctl = s.ctl) : Steps s t :=
  .of_runs h fun _ => by rw [hctl]

/-! ## The clock, the port and the links -/

theorem Steps.withTick (s : State) (x : Nat) : Steps s (s.withTick x) :=
  { Keeps.refl s, Frames.refl s with
    productQueue := id, window := id
    numbering := fun h => ⟨h.bands, h.nextBand, h.pages, h.nextPage⟩
    pageOrder := fun h => ⟨h.openPage, h.prevPage, h.pred, h.firstBand⟩
    interrupt := id, lineQueues := id, bandCounts := id
    nozzleSets := fun h => ⟨h.active, h.staged, h.nozzles, h.drained⟩
    addresses := id, services := id, suspension := id, halted := .of_ctl rfl }

theorem Steps.withPort (s : State) (x : MemoryPort) : Steps s (s.withPort x) :=
  { Keeps.refl s, Frames.refl s with
    productQueue := id, window := id
    numbering := fun h => ⟨h.bands, h.nextBand, h.pages, h.nextPage⟩
    pageOrder := fun h => ⟨h.openPage, h.prevPage, h.pred, h.firstBand⟩
    interrupt := id, lineQueues := id, bandCounts := id
    nozzleSets := fun h => ⟨h.active, h.staged, h.nozzles, h.drained⟩
    addresses := id, services := id, suspension := id, halted := .of_ctl rfl }

theorem Steps.setHead (s : State) (h : HeadId) (x : HeadLink) (hx : (s.head h).ServiceLaw → x.ServiceLaw) :
    Steps s (s.setHead h x) :=
  .of_runs_ctl (Runs.setHead s h x hx) rfl

theorem Steps.setChan (s : State) (c : ChanId) (x : Channel) (hx : (s.chan c).QueueLaw → x.QueueLaw) :
    Steps s (s.setChan c x) :=
  .of_runs_ctl (Runs.setChan s c x hx) rfl

/-- A head link changed in nothing that its service speaks of. -/
theorem HeadLink.ServiceLaw.congr {d e : HeadLink} (h : d.ServiceLaw) (hs : e.service = d.service)
    (ht : e.timer = d.timer) (hc : e.config = d.config) (hr : e.ready = d.ready) (hb : e.returnBand = d.returnBand) :
    e.ServiceLaw where
  timer := by rw [ht, hs, h.timer]
  config := by rw [hc, hs, h.config]
  ready := by rw [hr, hs]; exact h.ready
  band := by rw [hb, hs]; exact h.band

theorem setHead_steps_of_same (s : State) (h : HeadId) (x : HeadLink) (hs : x.service = (s.head h).service)
    (ht : x.timer = (s.head h).timer) (hc : x.config = (s.head h).config) (hr : x.ready = (s.head h).ready)
    (hb : x.returnBand = (s.head h).returnBand) : Steps s (s.setHead h x) :=
  .setHead s h x fun k => k.congr hs ht hc hr hb

/-! ## Events -/

theorem raise_steps (e : Event) (s : State) : Steps s (raise e s) :=
  .of_runs (raise_runs e s) fun _ => by rw [raise_ctl]

theorem halt_steps (cause : HaltCause) (s : State) : Steps s (halt cause s) :=
  .of_runs (halt_runs cause s) fun h => by rw [halt_of_frozen h]

theorem discard_steps (x : Nat) (s : State) : Steps s (discard x s) := .withPort s _

theorem pump_steps (s : State) : Steps s (pump s) := .withPort s _

theorem startTransfer_steps (fetch : Option (ChanId × LineRef)) (a : Addr) (len : Nat) (s : State) :
    Steps s (startTransfer fetch a len s) := by
  obtain ⟨tags, ts, g, e⟩ := startTransfer_spec fetch a len s
  rw [e]
  exact .withPort s _

/-! ## The channels -/

theorem settle_steps (c : ChanId) (s : State) : Steps s (settle c s) :=
  .of_runs (settle_runs c s) fun h => by rw [settle_of_frozen h]

theorem settleAll_cause_of_frozen {s : State} (h : frozen s = true) : (settleAll s).ctl = s.ctl :=
  foldl_ctl_of_frozen _ (fun s c hs => by rw [settle_of_frozen hs]) _ s h

theorem settleAll_steps (s : State) : Steps s (settleAll s) :=
  .of_runs (settleAll_runs s) fun h => by rw [settleAll_cause_of_frozen h]

theorem requestShip_steps (c : ChanId) (s : State) : Steps s (requestShip c s) :=
  .of_runs_ctl (requestShip_runs c s) (requestShip_onlyChanges c s .ctl (by decide))

theorem park_steps (h : HeadId) (linkCause : Bool) (s : State) : Steps s (park h linkCause s) :=
  .of_runs (park_runs h linkCause s) fun hs => park_cause_of_frozen hs h linkCause

theorem fire_steps (c : ChanId) (l : ComposedLine) (s : State) : Steps s (fire c l s) :=
  .of_runs_ctl (fire_runs c l s) (fire_onlyChanges c l s .ctl (by decide))

theorem fireDeferred_steps (c : ChanId) (s : State) : Steps s (fireDeferred c s) := by
  unfold fireDeferred
  split
  · exact (fire_steps ..).trans (settle_steps ..)
  · exact .refl s

theorem adjustCompose_steps (c : ChanId) (s : State) : Steps s (adjustCompose c s) :=
  .of_runs_ctl (adjustCompose_runs c s) (adjustCompose_onlyChanges c s .ctl (by decide))

theorem offerCount_steps (p : Position) (c : ChanId) (s : State) : Steps s (offerCount p c s) :=
  .of_runs (offerCount_runs p c s) fun h => by simp [offerCount, watched_of_frozen h]

theorem Steps.foldl {α : Type} (f : State → α → State) (hf : ∀ s a, Steps s (f s a)) (l : List α) (s : State) :
    Steps s (l.foldl f s) := by
  induction l generalizing s with
  | nil => exact .refl s
  | cons a l ih => exact (hf s a).trans (ih _)

end Sys2Proof.Machine

/-! PROOFS. The commands of the Position Unit, the channels, the Memory Port and the links: each answers with a next
state that keeps the laws (chapters 1, 2 and 6 to 8). -/

namespace Sys2Proof.Machine

/-! ## The Position Unit -/

/-- The Position Unit changed, with the law of the product queue kept. -/
theorem Keeps.withPosn (s : State) (x : PositionUnit) (hq : ProductQueueLaw s → ProductQueueLaw (s.withPosn x)) :
    Keeps s (s.withPosn x) :=
  { Keeps.refl s with
    productQueue := hq, window := id
    numbering := fun h => ⟨h.bands, h.nextBand, h.pages, h.nextPage⟩
    pageOrder := fun h => ⟨h.openPage, h.prevPage, h.pred, h.firstBand⟩
    interrupt := id, lineQueues := id, bandCounts := id
    nozzleSets := fun h => ⟨h.active, h.staged, h.nozzles, h.drained⟩
    addresses := id, services := id }

theorem Steps.withPosn (s : State) (x : PositionUnit) (hq : ProductQueueLaw s → ProductQueueLaw (s.withPosn x))
    (hpos : x.pos = s.posn.pos) : Steps s (s.withPosn x) :=
  { Keeps.withPosn s x hq with
    pos := hpos, layout := rfl, enables := rfl, listHead := rfl, suspension := id, halted := .of_ctl rfl }

theorem setPair_steps (p : Bool × Bool) (s : State) : Steps s (setPair p s) := .withPosn s _ id rfl

theorem setLevel_steps (x : Bool) (s : State) : Steps s (setLevel x s) := .withPosn s _ id rfl

theorem setPos_keeps (p : Position) (s : State) : Keeps s (setPos p s) := .withPosn s _ id

/-- A forward count moves the decoder and, with a layout, P; then the channels take what is crossed. -/
theorem execForwardCount_spec (s : State) :
    ∃ pair p t, execForwardCount s = .next t ∧ Steps (setPos p (setPair pair s)) t := by
  unfold execForwardCount
  dsimp only
  split
  · exact ⟨_, s.posn.pos, _, rfl, .refl _⟩
  · exact ⟨_, _, _, rfl, .foldl _ (fun s c => offerCount_steps _ c s) _ _⟩

theorem execBackwardCount_spec (s : State) :
    ∃ pair p, execBackwardCount s = .next (setPos p (setPair pair s)) := by
  unfold execBackwardCount
  dsimp only
  split
  · exact ⟨_, s.posn.pos, rfl⟩
  · exact ⟨_, _, rfl⟩

theorem execIllegalTransition_steps (s : State) : ∃ t, execIllegalTransition s = .next t ∧ Steps s t :=
  ⟨_, rfl, (setPair_steps _ s).trans (raise_steps _ _)⟩

theorem execProductDetectOtherChange_steps (s : State) :
    ∃ t, execProductDetectOtherChange s = .next t ∧ Steps s t := by
  unfold execProductDetectOtherChange
  split
  · exact ⟨_, rfl, setLevel_steps _ s⟩
  · exact ⟨_, rfl, setLevel_steps _ s⟩

/-! ## The channels' clocks -/

theorem advanceTo_steps (n : Nat) (s : State) : Steps s (advanceTo n s) := .withTick s _

theorem execStrobePulseEnd_steps (c : ChanId) (s : State) : ∃ t, execStrobePulseEnd c s = .next t ∧ Steps s t := by
  unfold execStrobePulseEnd
  split
  · exact ⟨_, rfl, .refl s⟩
  · exact ⟨_, rfl, .after (requestShip_steps c _) (.after (.setChan _ c _ id) (advanceTo_steps _ s))⟩

theorem execPeriodEnd_steps (c : ChanId) (s : State) : ∃ t, execPeriodEnd c s = .next t ∧ Steps s t := by
  unfold execPeriodEnd
  split
  · exact ⟨_, rfl, .refl s⟩
  · dsimp only
    split
    · exact ⟨_, rfl, (advanceTo_steps _ s).trans (fireDeferred_steps c _)⟩
    · exact ⟨_, rfl, .refl s⟩

/-! ## The Memory Port -/

theorem execReadCompletion_steps (tag : TagId) (ok : Bool) (data : List Byte) (s : State) :
    ∃ t, execReadCompletion tag ok data s = .next t ∧ Steps s t := by
  unfold execReadCompletion
  split
  · exact ⟨_, rfl, .refl s⟩
  · exact ⟨_, rfl, .refl s⟩
  · split
    · dsimp only
      split
      · exact ⟨_, rfl, (Steps.withPort s _).trans (pump_steps _)⟩
      · exact ⟨_, rfl, .withPort s _⟩
    · exact ⟨_, rfl, (Steps.withPort s _).trans (pump_steps _)⟩

theorem execReadRequestTimeout_steps (tag : TagId) (s : State) :
    ∃ t, execReadRequestTimeout tag s = .next t ∧ Steps s t := by
  unfold execReadRequestTimeout
  split
  · exact ⟨_, rfl, .refl s⟩
  · exact ⟨_, rfl, .refl s⟩
  · exact ⟨_, rfl, (advanceTo_steps _ s).trans (.withPort _ _)⟩

theorem execTagHoldExpiry_steps (tag : TagId) (s : State) : ∃ t, execTagHoldExpiry tag s = .next t ∧ Steps s t := by
  unfold execTagHoldExpiry
  split
  · exact ⟨_, rfl, .refl s⟩
  · exact ⟨_, rfl, .refl s⟩
  · exact ⟨_, rfl, ((advanceTo_steps _ s).trans (.withPort _ _)).trans (pump_steps _)⟩

theorem execPcieLinkDown_steps (s : State) : ∃ t, execPcieLinkDown s = .next t ∧ Steps s t := ⟨_, rfl, .withPort s _⟩

theorem execPcieLinkUp_steps (s : State) : ∃ t, execPcieLinkUp s = .next t ∧ Steps s t := ⟨_, rfl, .withPort s _⟩

/-! ## Line composition -/

/-- A channel requests a fetch exactly under R105's conditions. -/
theorem fetchRequest_eq_some (s : State) (c : ChanId) (r : LineRef) (n : Nat) :
    fetchRequest s c = some (r, n) ↔ working s = true ∧ (s.chan c).compose = some r ∧ target s c r = some n ∧
      serves s (headOf c) r.band = true ∧ (s.chan c).live = none ∧ (s.chan c).queue.length < 32 := by
  unfold fetchRequest
  dsimp only
  split
  next hc => simp [hc]
  next q hc =>
    split
    next ht =>
      simp only [hc, Option.some.injEq, reduceCtorEq, false_iff]
      rintro ⟨-, rfl, ht', -⟩
      rw [ht] at ht'
      cases ht'
    next m ht =>
      simp only [Option.ite_none_right_eq_some, Bool.and_eq_true, Option.isNone_iff_eq_none,
        Config.lineQueueMax, Option.some.injEq, Prod.mk.injEq, hc]
      constructor
      · rintro ⟨⟨⟨⟨hw, hs⟩, hl⟩, hq⟩, rfl, rfl⟩
        exact ⟨hw, rfl, ht, hs, hl, of_decide_eq_true hq⟩
      · rintro ⟨hw, rfl, ht', hs, hl, hq⟩
        rw [ht] at ht'
        cases ht'
        exact ⟨⟨⟨⟨hw, hs⟩, hl⟩, decide_eq_true hq⟩, rfl, rfl⟩

/-- One request judged by the arbiter: it takes the place of a later one, and of none (R109). -/
def betterRequest (s : State) (best : Option (ChanId × LineRef × Nat)) (c : ChanId) :
    Option (ChanId × LineRef × Nat) :=
  match fetchRequest s c with
  | none => best
  | some (r, n) =>
    match best with
    | some (_, _, m) => if n < m then some (c, r, n) else best
    | none => some (c, r, n)

theorem bestRequest_eq (s : State) : bestRequest s = allChans.foldl (betterRequest s) none := rfl

theorem foldl_betterRequest_requests (s : State) (l : List ChanId) (best : Option (ChanId × LineRef × Nat))
    (hbest : ∀ c r n, best = some (c, r, n) → fetchRequest s c = some (r, n)) (c : ChanId) (r : LineRef) (n : Nat)
    (h : l.foldl (betterRequest s) best = some (c, r, n)) : fetchRequest s c = some (r, n) := by
  induction l generalizing best with
  | nil => exact hbest c r n h
  | cons d l ih =>
    refine ih _ (fun e q m heq => ?_) h
    unfold betterRequest at heq
    split at heq
    · exact hbest e q m heq
    next r' n' hreq =>
      split at heq
      · split at heq
        · cases heq; exact hreq
        · exact hbest e q m heq
      · cases heq; exact hreq

/-- What the arbiter grants is requested. -/
theorem fetchRequest_of_bestRequest {s : State} {c : ChanId} {r : LineRef} {n : Nat}
    (h : bestRequest s = some (c, r, n)) : fetchRequest s c = some (r, n) :=
  foldl_betterRequest_requests s allChans none nofun c r n h

theorem execFetchGrant_steps (s : State) : ∃ t, execFetchGrant s = .next t ∧ Steps s t := by
  unfold execFetchGrant
  split
  · split
    next c r n hbest =>
      obtain ⟨-, -, -, -, -, hlen⟩ := (fetchRequest_eq_some s c r n).1 (fetchRequest_of_bestRequest hbest)
      exact ⟨_, rfl, .after (startTransfer_steps ..) (.setChan s c _ fun h => ⟨h.1, fun _ => hlen⟩)⟩
    next => exact ⟨_, rfl, .refl s⟩
  · exact ⟨_, rfl, .refl s⟩

/-- A line placed where a composition was live: the queue had room for it (R105, R132). -/
theorem placeLine_steps (c : ChanId) (x : ComposedLine) (s : State) (hlive : (s.chan c).live.isSome = true) :
    Steps s (placeLine c x (s.setChan c { s.chan c with live := none })) := by
  unfold placeLine
  dsimp only
  refine Steps.trans ?_ (requestShip_steps c _)
  refine Steps.trans ?_ (adjustCompose_steps c _)
  have hone : ∀ (s : State) (x y : Channel), (s.setChan c x).setChan c y = s.setChan c y := by
    intro s x y
    simp [State.setChan, State.withChans]
  rw [hone]
  refine .setChan s c _ fun h => ⟨?_, fun e => by simp at e⟩
  have hlt := h.2 hlive
  simp only [State.setChan_chan_self, List.length_append, List.length_singleton]
  omega

theorem endFetch_steps (x : Nat) (c : ChanId) (r : LineRef) (bytes : Option (List Byte)) (s : State) :
    Steps s (endFetch x c r bytes s) := by
  unfold endFetch
  dsimp only
  have hd := discard_steps x s
  generalize discard x s = s1 at hd ⊢
  refine hd.trans ?_
  split
  next hlive =>
    have hsome : (s1.chan c).live.isSome = true := by rw [hlive]; rfl
    have hclear : Steps s1 (s1.setChan c { s1.chan c with live := none }) :=
      .setChan s1 c _ fun h => ⟨h.1, nofun⟩
    split
    · split
      · split
        · exact placeLine_steps c _ s1 hsome
        · exact placeLine_steps c _ s1 hsome
      · exact hclear
    · exact hclear
  next => exact .refl s1

theorem execFetchComplete_steps (x : Nat) (s : State) : ∃ t, execFetchComplete x s = .next t ∧ Steps s t := by
  unfold execFetchComplete
  split
  · exact ⟨_, rfl, endFetch_steps ..⟩
  · exact ⟨_, rfl, .refl s⟩

theorem execFetchFail_steps (x : Nat) (s : State) : ∃ t, execFetchFail x s = .next t ∧ Steps s t := by
  unfold execFetchFail
  split
  · split
    · exact ⟨_, rfl, endFetch_steps ..⟩
    · exact ⟨_, rfl, .refl s⟩
  · exact ⟨_, rfl, .refl s⟩

/-! ## The head links -/

theorem beginFrame_steps (h : HeadId) (f : Frame) (s : State) : Steps s (beginFrame h f s) :=
  setHead_steps_of_same s h _ rfl rfl rfl rfl rfl

theorem beginLine_steps (h : HeadId) (row : Row) (s : State) : Steps s (beginLine h row s) := by
  unfold beginLine
  dsimp only
  split
  · exact .after (beginFrame_steps ..) (.setChan s _ _ id)
  · exact .setChan s _ _ id

theorem beginRequest_steps (h : HeadId) (q : LinkRequest) (s : State) : Steps s (beginRequest h q s) := by
  unfold beginRequest
  dsimp only
  have hqueue : Steps s (s.setHead h { s.head h with queue := removeKind q.kind (s.head h).queue }) :=
    setHead_steps_of_same s h _ rfl rfl rfl rfl rfl
  split
  · exact hqueue.trans (beginLine_steps ..)
  · exact hqueue.trans (beginLine_steps ..)
  · exact hqueue.trans (beginFrame_steps ..)
  · exact hqueue.trans (beginFrame_steps ..)

theorem execFrameBegin_steps (h : HeadId) (s : State) : ∃ t, execFrameBegin h s = .next t ∧ Steps s t := by
  unfold execFrameBegin
  dsimp only
  split
  · split
    · exact ⟨_, rfl, beginFrame_steps ..⟩
    · split
      · exact ⟨_, rfl, beginRequest_steps ..⟩
      · exact ⟨_, rfl, .refl s⟩
  all_goals exact ⟨_, rfl, .refl s⟩

theorem execFrameEnd_steps (h : HeadId) (s : State) : ∃ t, execFrameEnd h s = .next t ∧ Steps s t := by
  unfold execFrameEnd
  split
  · exact ⟨_, rfl, (advanceTo_steps _ s).trans (setHead_steps_of_same _ h _ rfl rfl rfl rfl rfl)⟩
  all_goals exact ⟨_, rfl, .refl s⟩

theorem execLinkResetEnd_steps (h : HeadId) (s : State) : ∃ t, execLinkResetEnd h s = .next t ∧ Steps s t := by
  unfold execLinkResetEnd
  split
  · exact ⟨_, rfl, (advanceTo_steps _ s).trans (setHead_steps_of_same _ h _ rfl rfl rfl rfl rfl)⟩
  all_goals exact ⟨_, rfl, .refl s⟩

theorem shipLine_steps (c : ChanId) (r : LineRef) (s : State) : Steps s (shipLine c r s) := by
  unfold shipLine
  dsimp only
  have hship : Steps s (s.setChan c { s.chan c with slot := .shipped r }) := .setChan s c _ id
  exact .ite (fun _ => .ite (fun _ => hship.trans (fireDeferred_steps ..)) fun _ => hship) fun _ => .refl s

theorem lineOutcome_steps (h : HeadId) (f : Frame) (row : Row) (r : LineRef) (o : FrameOutcome) (s : State) :
    Steps s (lineOutcome h f row r o s) := by
  unfold lineOutcome
  refine .ite (fun _ => .refl s) fun _ => ?_
  cases o with
  | ready => exact .ite (fun _ => .refl s) fun _ => shipLine_steps ..
  | checkError =>
    exact .ite (fun _ => .refl s) fun _ => .ite (fun _ => park_steps ..) fun _ => .ite (fun _ => .refl s) fun _ =>
      setHead_steps_of_same s h _ rfl rfl rfl rfl rfl
  | timeout => exact park_steps ..
  | notReady => exact park_steps ..
  | overtemp => exact park_steps ..

/-- A configuration ends well: its head was CONFIGURING or RETURNING, so no query timer runs (R165, R169). -/
theorem configSucceeds_steps (h : HeadId) (s : State) (hc : (s.head h).config.isSome = true) :
    Steps s (configSucceeds h s) := by
  refine .setHead s h _ fun k => ?_
  have hserv : (s.head h).service = .configuring ∨ (s.head h).service = .returning := by
    simpa [hc] using k.config
  have hparked : (s.head h).service ≠ .parked := by rcases hserv with e | e <;> simp [e]
  refine { timer := ?_, config := rfl, ready := fun hr => absurd (k.ready hr) hparked, band := fun _ => .inl rfl }
  simpa [hparked] using k.timer

theorem configOutcome_steps (h : HeadId) (f : Frame) (o : FrameOutcome) (complete : Bool)
    (unconfirmed : List (Byte × Byte)) (s : State) : Steps s (configOutcome h f o complete unconfirmed s) := by
  unfold configOutcome
  split
  next => exact .refl s
  next used hused =>
    dsimp only
    have hagain : Steps s (if used then park h true s
        else s.setHead h { s.head h with config := some true, again := some (repeatFrame f unconfirmed) }) := by
      refine .ite (fun _ => park_steps ..) fun _ => .setHead s h _ fun k => ?_
      exact { timer := k.timer, config := by rw [← k.config, hused]; rfl, ready := k.ready, band := k.band }
    cases o with
    | ready => exact .ite (fun _ => configSucceeds_steps h s (by rw [hused]; rfl)) fun _ => hagain
    | checkError => exact hagain
    | timeout => exact park_steps ..
    | notReady => exact park_steps ..
    | overtemp => exact park_steps ..

theorem takeOutcome_steps (h : HeadId) (o : FrameOutcome) (count : Nat) (s : State) :
    Steps s (takeOutcome h o count s) := by
  unfold takeOutcome
  dsimp only
  have h1 : Steps s (s.setHead h { s.head h with link := .idle, frame := none }) :=
    setHead_steps_of_same s h _ rfl rfl rfl rfl rfl
  split
  · exact h1
  · split
    · exact h1.trans (lineOutcome_steps ..)
    next es _ =>
      have h2 : ∀ v, Steps s ((s.setHead h { s.head h with link := .idle, frame := none }).setHead h
          { (s.setHead h { s.head h with link := .idle, frame := none }).head h with shadow := v }) :=
        fun v => .after (setHead_steps_of_same _ h _ rfl rfl rfl rfl rfl) h1
      exact .ite (fun _ => h2 _) fun _ => (h2 _).trans (configOutcome_steps ..)
    · refine .ite (fun _ => h1) fun _ => .ite (fun _ => h1.trans (configOutcome_steps ..)) fun _ =>
        .ite (fun hp => h1.trans (.setHead _ h _ fun k => ?_)) fun _ => h1
      exact { timer := k.timer, config := k.config, ready := fun _ => by simpa using hp, band := k.band }

theorem execAckReceived_steps (h : HeadId) (ack : LaneReturn) (s : State) :
    ∃ t, execAckReceived h ack s = .next t ∧ Steps s t := by
  have hlane : Steps s (s.setHead h { s.head h with lane := (s.head h).lane ++ [ack] }) :=
    setHead_steps_of_same s h _ rfl rfl rfl rfl rfl
  rcases execAckReceived_spec h ack s with ⟨_, _, _, _, _, e⟩ | ⟨_, e⟩
  · exact ⟨_, e, hlane.trans ((advanceTo_steps _ _).trans (takeOutcome_steps ..))⟩
  · exact ⟨_, e, hlane⟩

theorem execAckTimeout_steps (h : HeadId) (s : State) : ∃ t, execAckTimeout h s = .next t ∧ Steps s t := by
  unfold execAckTimeout
  split
  · split
    · exact ⟨_, rfl, .refl s⟩
    · exact ⟨_, rfl, (advanceTo_steps _ s).trans (takeOutcome_steps ..)⟩
  all_goals exact ⟨_, rfl, .refl s⟩

theorem addRequest_steps (h : HeadId) (k : RequestKind) (s : State) : Steps s (addRequest h k s) :=
  setHead_steps_of_same s h _ rfl rfl rfl rfl rfl

theorem execQueryTimerExpiry_steps (h : HeadId) (s : State) :
    ∃ t, execQueryTimerExpiry h s = .next t ∧ Steps s t := by
  unfold execQueryTimerExpiry
  split
  · exact ⟨_, rfl, .refl s⟩
  next e _ =>
    split
    next hp =>
      dsimp only
      have h1 : Steps s ((advanceTo e s).setHead h
          { (advanceTo e s).head h with timer := some (e + Config.queryInterval) }) :=
        (advanceTo_steps _ s).trans (.setHead _ h _ fun k =>
          { timer := (decide_eq_true hp).symm, config := k.config, ready := k.ready, band := k.band })
      exact ⟨_, rfl, .ite (fun _ => h1) fun _ => h1.trans (addRequest_steps ..)⟩
    next => exact ⟨_, rfl, .refl s⟩

end Sys2Proof.Machine

/-! PROOFS. The commands of the List Reader and of the Nozzle Map Store: each answers with a next state that keeps the
laws (chapters 2 and 5). -/

namespace Sys2Proof.Machine

/-! ## Moves of the reader -/

/-- Work of the reader, the port and Engine Control, after other changes, keeps the laws when a block read begins over
an empty window with every STAGED set promoted, addresses stay on their boundary and the engine stops over an empty
window. -/
theorem Keeps.then_reads {r s t : State} (k : Keeps r s) (h : Reads s t)
    (hblock : ∀ x l n, t.reader.work = .blockRead x l n →
      s.reader.work = .blockRead x l n ∨ (s.win.bands = [] ∧ ∀ g, (s.map g).staged = none))
    (hstop : t.ctl.engine = .stopped → s.ctl.engine = .stopped ∨ s.win.bands = [])
    (haddr : RecordAddressLaw r → RecordAddressLaw t) : Keeps r t where
  pending := h.pending.trans k.pending
  productQueue x := by
    have y := k.productQueue x
    unfold ProductQueueLaw at *
    rw [h.posn, h.win]
    exact y
  window x := by
    have y := k.window x
    unfold WindowLaw at *
    rw [h.win]
    exact ⟨y.1, fun e => (hstop e).elim y.2 id⟩
  numbering x := by
    have y := k.numbering x
    exact ⟨by rw [h.win]; exact y.bands, by rw [h.win]; exact y.nextBand, by rw [h.win]; exact y.pages,
      by rw [h.win]; exact y.nextPage⟩
  pageOrder x := by
    have y := k.pageOrder x
    exact ⟨by rw [h.win]; exact y.openPage, by rw [h.win]; exact y.prevPage, by rw [h.win]; exact y.pred,
      by rw [h.win]; exact y.firstBand⟩
  interrupt x := h.irq (k.interrupt x)
  lineQueues x c := by unfold State.chan; rw [h.chans]; exact k.lineQueues x c
  bandCounts x := by
    have y := k.bandCounts x
    refine ⟨by rw [h.win, h.layout]; exact y.1, fun z l n e => ?_⟩
    rw [h.win]
    exact (hblock z l n e).elim (y.2 z l n) And.left
  nozzleSets x := by
    have y := k.nozzleSets x
    have hm : ∀ g, t.map g = s.map g := fun g => by unfold State.map; rw [h.maps]
    refine ⟨fun g => ?_, fun g st e => ?_, by rw [h.layout]; exact y.nozzles, fun z l n e g => ?_⟩
    · rw [hm, h.layout]; exact y.active g
    · rw [h.layout]; rw [hm] at e; exact y.staged g st e
    · rw [hm]
      exact (hblock z l n e).elim (fun e' => y.drained z l n e' g) fun w => w.2 g
  addresses := haddr
  services x g := by unfold State.head; rw [h.heads]; exact k.services x g

theorem Frames.of_reads {s t : State} (h : Reads s t) : Frames s t :=
  ⟨by rw [h.posn], h.layout, h.kept.1, h.listHead⟩

/-- With a record or a read in hand, the law of a suspension says that the engine is not SUSPENDED, so only a
suspension made on the way counts. -/
theorem suspensionLaw_of_work {s t : State} (hwork : s.reader.work ≠ .idle)
    (h : t.ctl.engine = .suspended → s.ctl.engine = .suspended ∨
      (t.reader.work = .idle ∧ (t.reader.cond = .suspendedOwner ∨ t.reader.cond = .suspendedEnd))) :
    SuspensionLaw s → SuspensionLaw t := by
  intro hs ht
  rcases h ht with he | hr
  · exact absurd (hs he).1 hwork
  · exact hr

theorem aligned_recordAddr (a : Addr) : aligned (recordAddr a) := by
  rw [aligned, recordAddr, BitVec.and_assoc, show ~~~7#64 &&& 7#64 = 0#64 by decide, BitVec.and_zero]
  rfl

/-- A block read has its record's copy of NEXT in hand. -/
theorem ne_blockRead_of_next {w : ReaderWork} (h : w.next = none) (x : Nat) (l : LayoutRecord) (n : Addr) :
    w ≠ .blockRead x l n := by
  rintro rfl
  cases h

theorem work_ne_idle_of_next {w : ReaderWork} {n : Addr} (h : w.next = some n) : w ≠ .idle := by
  rintro rfl
  cases h

/-- The reader with a record or a read in hand takes up other work, and begins no block read. -/
theorem Steps.withReader (s : State) (r : Reader) (hwork : s.reader.work ≠ .idle)
    (hlist : r.listHead = s.reader.listHead)
    (hblock : ∀ x l n, r.work = .blockRead x l n → s.reader.work = .blockRead x l n)
    (haddr : RecordAddressLaw s → RecordAddressLaw (s.withReader r)) : Steps s (s.withReader r) :=
  { (Keeps.refl s).then_reads (.withReader s r hlist) (fun x l n e => .inl (hblock x l n e)) .inl haddr,
    Frames.of_reads (.withReader s r hlist) with
    suspension := suspensionLaw_of_work hwork .inl
    halted := .of_ctl rfl }

/-- Work that keeps the record address and takes up a copy of NEXT that lies on its boundary. -/
theorem setWork_steps (w : ReaderWork) (s : State) (hwork : s.reader.work ≠ .idle)
    (hblock : ∀ x l n, w ≠ .blockRead x l n)
    (hnext : RecordAddressLaw s → ∀ n, w.next = some n → aligned n) : Steps s (setWork w s) :=
  .withReader s _ hwork rfl (fun x l n e => absurd e (hblock x l n)) fun h => ⟨h.1, h.2.1, hnext h⟩

theorem setCond_steps (c : ReaderCondition) (s : State) (hwork : s.reader.work ≠ .idle) : Steps s (setCond c s) :=
  .withReader s _ hwork rfl (fun _ _ _ => id) id

theorem readHeader_steps (s : State) (hwork : s.reader.work ≠ .idle) : Steps s (readHeader s) :=
  .after (startTransfer_steps ..) (.withReader s _ hwork rfl nofun fun h => ⟨h.1, h.2.1, nofun⟩)

theorem readNext_steps (s : State) (hwork : s.reader.work ≠ .idle) : Steps s (readNext s) :=
  .after (startTransfer_steps ..) (.withReader s _ hwork rfl nofun fun h => ⟨h.1, h.2.1, nofun⟩)

/-- A suspension of a reader that is reading. -/
theorem suspendReader_steps (c : ReaderCondition) (s : State) (hwork : s.reader.work ≠ .idle)
    (hc : c = .suspendedOwner ∨ c = .suspendedEnd) (hhalt : s.ctl.engine ≠ .halted) : Steps s (suspendReader c s) := by
  obtain ⟨hreads, hreader, hengine, -⟩ := suspendReader_spec c s
  refine { (Keeps.refl s).then_reads hreads ?_ ?_ ?_, Frames.of_reads hreads with suspension := ?_, halted := ?_ }
  · rw [hreader]; nofun
  · rw [hengine]; split <;> simp_all
  · intro h; rw [RecordAddressLaw, hreader]; exact ⟨h.1, h.2.1, nofun⟩
  · exact suspensionLaw_of_work hwork fun _ => .inr (by rw [hreader]; exact ⟨rfl, hc⟩)
  · exact fun e => absurd e hhalt

/-! ## Units handed over -/

theorem postWrites_steps (ws : List (Addr × Word32)) (s : State) : Steps s (postWrites ws s) := .withPort s _

theorem handOver_steps (u : WriteUnit) (s : State) : Steps s (handOver u s) := by
  rw [handOver_spec]
  exact .ite (fun _ => .ite (fun _ => .after (raise_steps _ _) (postWrites_steps _ s)) fun _ => postWrites_steps _ s)
    fun _ => .withPort s _

/-! ## Following NEXT (R27) -/

/-- NEXT is followed after other work, `next` being the copy that the reader then had in hand. -/
theorem followNext_keeps {r s : State} (next : Addr) (h : Keeps r s) (hnext : RecordAddressLaw r → aligned next) :
    Keeps r (followNext next s) := by
  obtain ⟨hreads, haddr, hwork, hengine⟩ := followNext_spec next s
  have hlaw : RecordAddressLaw r → RecordAddressLaw (followNext next s) := by
    intro l
    obtain ⟨l1, l2, -⟩ := h.addresses l
    refine ⟨by rw [hreads.listHead]; exact l1, ?_, by rw [hwork]; nofun⟩
    rcases haddr with e | e
    · rw [e]; exact l2
    · rw [e]; exact hnext l
  have hstop : (followNext next s).ctl.engine = .stopped → s.ctl.engine = .stopped ∨ s.win.bands = [] := by
    rcases hengine with e | ⟨-, e, -⟩
    · rw [e]; exact .inl
    · rw [e]; nofun
  exact h.then_reads hreads (fun x l n e => absurd e (ne_blockRead_of_next hwork x l n)) hstop hlaw

theorem followNext_halted (next : Addr) (s : State) : HaltHolds s (followNext next s) := by
  intro h
  have hsame : followNext next s = setWork .idle s := by simp [followNext, h]
  rw [hsame]
  exact ⟨h, rfl⟩

/-- The engine that follows NEXT is SUSPENDED as it was, or by the suspension at the end of the chain. -/
theorem followNext_suspended {next : Addr} {s : State} (h : (followNext next s).ctl.engine = .suspended) :
    s.ctl.engine = .suspended ∨ ((followNext next s).reader.work = .idle ∧
      ((followNext next s).reader.cond = .suspendedOwner ∨ (followNext next s).reader.cond = .suspendedEnd)) := by
  obtain ⟨-, -, -, e | ⟨-, -, hidle, hcond⟩⟩ := followNext_spec next s
  · exact .inl (e.symm.trans h)
  · exact .inr ⟨hidle, .inr hcond⟩

/-- NEXT is followed after steps that kept the reader's record, or halted the engine. -/
theorem followNext_steps_after {r s : State} (next : Addr) (h : Steps r s) (hwork : r.reader.work ≠ .idle)
    (hengine : s.ctl.engine = .suspended → r.ctl.engine = .suspended)
    (hnext : RecordAddressLaw r → aligned next) : Steps r (followNext next s) :=
  { followNext_keeps next h.toKeeps hnext, h.toFrames.trans (.of_reads (followNext_spec next s).1) with
    suspension := suspensionLaw_of_work hwork fun e => (followNext_suspended e).imp_left hengine
    halted := h.halted.trans (followNext_halted next s) }

theorem followNext_steps (next : Addr) (s : State) (hwork : s.reader.work ≠ .idle)
    (hnext : RecordAddressLaw s → aligned next) : Steps s (followNext next s) :=
  followNext_steps_after next (.refl s) hwork id hnext

/-! ## Header, body and NEXT field (R25 to R30) -/

theorem reading_engine {s : State} (h : reading s = true) : s.ctl.engine = .running ∨ s.ctl.engine = .suspended := by
  unfold reading at h
  cases he : s.ctl.engine <;> simp_all

theorem ne_halted_of_reading {s : State} (h : reading s = true) : s.ctl.engine ≠ .halted := by
  rcases reading_engine h with e | e <;> simp [e]

theorem closeUnknown_steps (type : Nat) (next : Addr) (s : State) (hwork : s.reader.work ≠ .idle)
    (hnext : aligned next) : Steps s (closeUnknown type next s) :=
  followNext_steps_after next (handOver_steps _ s) hwork (by rw [handOver_engine]; exact id) fun _ => hnext

theorem actOnHeader_steps (bs : List Byte) (s : State) (hwork : s.reader.work ≠ .idle)
    (hhalt : s.ctl.engine ≠ .halted) : Steps s (actOnHeader bs s) := by
  unfold actOnHeader
  split
  · split
    · refine .after (startTransfer_steps ..) (setWork_steps _ s hwork nofun fun _ n e => ?_)
      cases e
      exact aligned_recordAddr _
    · exact closeUnknown_steps _ _ s hwork (aligned_recordAddr _)
  · split
    · exact .after (readHeader_steps _ hwork) (.withReader s _ hwork rfl (fun _ _ _ => id) id)
    · exact suspendReader_steps _ s hwork (.inl rfl) hhalt

theorem execHeaderReadComplete_steps (s : State) : ∃ t, execHeaderReadComplete s = .next t ∧ Steps s t := by
  unfold execHeaderReadComplete
  split
  next x hx =>
    split
    · split
      next hr =>
        refine ⟨_, rfl, .after (actOnHeader_steps _ _ ?_ ?_) (discard_steps x s)⟩
        · rw [discard_reader, hx]; nofun
        · rw [discard_ctl]; exact ne_halted_of_reading hr
      next => exact ⟨_, rfl, .refl s⟩
    · exact ⟨_, rfl, .refl s⟩
  all_goals exact ⟨_, rfl, .refl s⟩

theorem holdRecord_steps (body : RecordBody) (next : Addr) (s : State) (hwork : s.reader.work ≠ .idle)
    (hnext : RecordAddressLaw s → aligned next) : Steps s (holdRecord body next s) := by
  have haligned : ∀ w : ReaderWork, w.next = some next → RecordAddressLaw s → ∀ n, w.next = some n → aligned n := by
    intro w hw l n e
    rw [hw] at e
    cases e
    exact hnext l
  have hheld : Steps s (setWork (.held body next false) s) := setWork_steps _ s hwork nofun (haligned _ rfl)
  have hcond : ∀ c, Steps s (setCond c (setWork (.held body next false) s)) :=
    fun c => .after (setCond_steps c _ (nofun : ReaderWork.held body next false ≠ .idle)) hheld
  unfold holdRecord
  dsimp only
  cases body with
  | band b => exact .ite (fun _ => .after (halt_steps _ _) hheld) fun _ => .ite (fun _ => hcond _) fun _ => hheld
  | edit e => exact .ite (fun _ => hcond _) fun _ => setWork_steps _ s hwork nofun (haligned _ rfl)
  | layout l => exact .ite (fun _ => hheld) fun _ => hcond _

theorem actOnFixed_steps (t : RecordType) (next : Addr) (bs : List Byte) (s : State) (hwork : s.reader.work ≠ .idle)
    (hnext : RecordAddressLaw s → aligned next) : Steps s (actOnFixed t next bs s) := by
  unfold actOnFixed
  refine .ite (fun _ => holdRecord_steps _ _ s hwork hnext) fun _ => ?_
  refine .after (startTransfer_steps ..) (setWork_steps _ s hwork nofun fun l n e => ?_)
  cases e
  exact hnext l

/-- The copy of NEXT in hand lies on its boundary. -/
theorem aligned_of_next {s : State} {n : Addr} (h : s.reader.work.next = some n) :
    RecordAddressLaw s → aligned n :=
  fun l => l.2.2 n h

theorem execBodyReadComplete_steps (s : State) : ∃ t, execBodyReadComplete s = .next t ∧ Steps s t := by
  unfold execBodyReadComplete
  split
  next x t next hx =>
    have hdisc : (discard x s).reader.work.next = some next := by rw [discard_reader, hx]; rfl
    split
    · split
      · exact ⟨_, rfl, .after (actOnFixed_steps _ _ _ _ (work_ne_idle_of_next hdisc) (aligned_of_next hdisc))
          (discard_steps x s)⟩
      · exact ⟨_, rfl, .refl s⟩
    · exact ⟨_, rfl, .refl s⟩
  next x t next fixed hx =>
    have hdisc : (discard x s).reader.work.next = some next := by rw [discard_reader, hx]; rfl
    split
    · split
      · exact ⟨_, rfl, .after (holdRecord_steps _ _ _ (work_ne_idle_of_next hdisc) (aligned_of_next hdisc))
          (discard_steps x s)⟩
      · exact ⟨_, rfl, .refl s⟩
    · exact ⟨_, rfl, .refl s⟩
  all_goals exact ⟨_, rfl, .refl s⟩

theorem execNextFieldReadComplete_steps (s : State) : ∃ t, execNextFieldReadComplete s = .next t ∧ Steps s t := by
  unfold execNextFieldReadComplete
  split
  next x hx =>
    split
    · split
      · refine ⟨_, rfl, .after (followNext_steps _ _ ?_ fun _ => aligned_recordAddr _) (discard_steps x s)⟩
        rw [discard_reader, hx]
        nofun
      · exact ⟨_, rfl, .refl s⟩
    · exact ⟨_, rfl, .refl s⟩
  all_goals exact ⟨_, rfl, .refl s⟩

theorem execRecordReadFailed_steps (s : State) : ∃ t, execRecordReadFailed s = .next t ∧ Steps s t := by
  unfold execRecordReadFailed
  split
  · split
    · exact ⟨_, rfl, halt_steps _ s⟩
    · exact ⟨_, rfl, .refl s⟩
  · exact ⟨_, rfl, .refl s⟩

/-! ## Failed write-back (R38) -/

theorem execWritebackUnitFailed_steps (issued : Nat) (s : State) :
    ∃ t, execWritebackUnitFailed issued s = .next t ∧ Steps s t := by
  unfold execWritebackUnitFailed
  split
  · exact ⟨_, rfl, .refl s⟩
  · dsimp only
    split
    · exact ⟨_, rfl, .after (halt_steps _ _) (.withPort s _)⟩
    · split
      · exact ⟨_, rfl, .after (raise_steps _ _) (.withPort s _)⟩
      · exact ⟨_, rfl, .withPort s _⟩

/-! ## Nozzle sets under an operation (R85, R88, R89) -/

theorem NozzleSet.nil (limit : Nat) : NozzleSet limit [] := ⟨.nil, Nat.zero_le _, nofun⟩

theorem NozzleSet.sublist {limit : Nat} {l m : List Nat} (h : NozzleSet limit m) (hs : l.Sublist m) :
    NozzleSet limit l :=
  ⟨h.1.sublist hs, hs.length_le.trans h.2.1, fun i hi => h.2.2 i (hs.subset hi)⟩

theorem addIndex_nozzleSet {limit : Nat} {r : EditResult} (h : NozzleSet limit r.set) (i : Nat) :
    NozzleSet limit (addIndex limit r i).set := by
  rw [addIndex_eq]
  split_ifs with hlimit hmem hroom
  · exact h
  · exact h
  · refine ⟨pairwise_insertAscending h.1 hmem, ?_, fun j hj => ?_⟩
    · rw [length_insertAscending, Config.nozzleSetMax]; omega
    · rcases mem_insertAscending.1 hj with rfl | hj
      · omega
      · exact h.2.2 j hj
  · exact h

theorem removeIndex_nozzleSet {limit : Nat} {r : EditResult} (h : NozzleSet limit r.set) (i : Nat) :
    NozzleSet limit (removeIndex limit r i).set := by
  unfold removeIndex
  split
  · exact h
  · exact h.sublist List.filter_sublist

theorem foldl_nozzleSet {limit : Nat} (f : EditResult → Nat → EditResult)
    (hf : ∀ r i, NozzleSet limit r.set → NozzleSet limit (f r i).set) (is : List Nat) (r : EditResult)
    (h : NozzleSet limit r.set) : NozzleSet limit (is.foldl f r).set := by
  induction is generalizing r with
  | nil => exact h
  | cons i is ih => exact ih _ (hf r i h)

/-- Every operation keeps the law of R85. -/
theorem applyEdit_nozzleSet {limit : Nat} {set : List Nat} (h : NozzleSet limit set) (op : EditOp) (is : List Nat) :
    NozzleSet limit (applyEdit op limit is set).set := by
  cases op with
  | add => exact foldl_nozzleSet _ (fun _ i hr => addIndex_nozzleSet hr i) is _ h
  | remove => exact foldl_nozzleSet _ (fun _ i hr => removeIndex_nozzleSet hr i) is _ h
  | replace => exact foldl_nozzleSet _ (fun _ i hr => addIndex_nozzleSet hr i) is _ (.nil limit)
  | noOperation => exact h

/-- A head's two sets keep the law of R85. -/
def NozzleMap.SetsLaw (limit : Nat) (m : NozzleMap) : Prop :=
  NozzleSet limit m.active ∧ ∀ st, m.staged = some st → NozzleSet limit st.set

theorem NozzleMap.SetsLaw.congr {limit : Nat} {m n : NozzleMap} (h : m.SetsLaw limit) (hs : n.sets = m.sets) :
    n.SetsLaw limit := by
  obtain ⟨ha, hst⟩ := Prod.mk.inj hs
  exact ⟨by rw [ha]; exact h.1, fun st e => h.2 st (by rw [← hst, e])⟩

theorem NozzleSetLaw.sets {s : State} (h : NozzleSetLaw s) (g : HeadId) :
    (s.map g).SetsLaw (nozzleLimit s.layout g) :=
  ⟨h.active g, h.staged g⟩

theorem immediateSets_law {limit : Nat} {m : NozzleMap} (h : m.SetsLaw limit) (e : EditRecord) :
    (immediateSets limit e m).1.SetsLaw limit := by
  unfold immediateSets
  dsimp only
  split
  next hnone => exact ⟨applyEdit_nozzleSet h.1 _ _, fun st e => h.2 st e⟩
  next st hst =>
    refine ⟨applyEdit_nozzleSet h.1 _ _, fun st' e' => ?_⟩
    cases e'
    exact applyEdit_nozzleSet (h.2 st hst) _ _

theorem stagedMap_law {s : State} (h : NozzleSetLaw s) (e : EditRecord) :
    (stagedMap s e).SetsLaw (nozzleLimit s.layout e.head) := by
  have hm := h.sets e.head
  unfold stagedMap
  dsimp only
  split
  · exact hm
  · split
    · exact ⟨applyEdit_nozzleSet hm.1 _ _, hm.2⟩
    · refine ⟨hm.1, fun st' e' => ?_⟩
      cases e'
      exact applyEdit_nozzleSet hm.1 _ _

/-- A head's map replaced by one whose sets keep the law, and without a STAGED set while a layout block is read. -/
theorem Steps.setMap (s : State) (h : HeadId) (m : NozzleMap)
    (hblock : ∀ x l n, s.reader.work = .blockRead x l n → m.staged = none)
    (hset : NozzleSetLaw s → m.SetsLaw (nozzleLimit s.layout h)) : Steps s (s.setMap h m) :=
  { Keeps.refl s, Frames.refl s with
    productQueue := id, window := id
    numbering := fun k => ⟨k.bands, k.nextBand, k.pages, k.nextPage⟩
    pageOrder := fun k => ⟨k.openPage, k.prevPage, k.pred, k.firstBand⟩
    interrupt := id, lineQueues := id, bandCounts := id
    nozzleSets := fun k => by
      have hsets : ∀ g, ((s.setMap h m).map g).SetsLaw (nozzleLimit s.layout g) := by
        intro g
        rw [State.setMap_map]
        split
        next hg => rw [hg]; exact hset k
        next => exact k.sets g
      refine ⟨fun g => (hsets g).1, fun g => (hsets g).2, k.nozzles, fun x l n e g => ?_⟩
      rw [State.setMap_map]
      split
      next => exact hblock x l n e
      next => exact k.drained x l n e g
    addresses := id, services := id, suspension := id, halted := .of_ctl rfl }

/-! ## Edits (R87 to R100) -/

/-- An edit is applied while no layout block is read. -/
theorem applyRecord_keeps (e : EditRecord) (s : State) (hblock : ∀ x l n, s.reader.work ≠ .blockRead x l n) :
    Keeps s (applyRecord e s).1 ∧ Frames s (applyRecord e s).1 ∧
      (SuspensionLaw s → SuspensionLaw (applyRecord e s).1) := by
  obtain ⟨m, hruns, himmediate, hstaged⟩ := applyRecord_spec e s
  have hset : Steps s (s.setMap e.head m) := by
    refine .setMap s _ m (fun x l n w => absurd w (hblock x l n)) fun l => ?_
    cases hi : e.immediate with
    | true => exact (immediateSets_law (l.sets e.head) e).congr (himmediate hi)
    | false => rw [hstaged hi]; exact stagedMap_law l e
  exact ⟨hset.toKeeps.trans (.of_runs hruns), hset.toFrames.trans (.of_runs hruns),
    fun l => hruns.suspensionLaw (hset.suspension l)⟩

/-- An edit in hand is carried out (R29, R98). -/
theorem carryOutEdit_steps (e : EditRecord) (next : Addr) (s : State)
    (hwork : s.reader.work = .editing e next ∨ s.reader.work = .held (.edit e) next false)
    (hhalt : s.ctl.engine ≠ .halted) : Steps s (carryOutEdit e next s) := by
  have hnext : s.reader.work.next = some next := by rcases hwork with w | w <;> rw [w] <;> rfl
  have hblock : ∀ x l n, s.reader.work ≠ .blockRead x l n := by rcases hwork with w | w <;> rw [w] <;> nofun
  obtain ⟨hkeeps, hframes, hsusp⟩ := applyRecord_keeps e s hblock
  have hclosed : Steps s (closeEdit e (applyRecord e s)) :=
    .after (handOver_steps _ _) { hkeeps, hframes with suspension := hsusp, halted := fun k => absurd k hhalt }
  refine followNext_steps_after next hclosed (work_ne_idle_of_next hnext) (fun k => ?_) (aligned_of_next hnext)
  rw [closeEdit, handOver_engine] at k
  obtain ⟨-, he | he⟩ := applyRecord_frame e s
  · exact he.symm.trans k
  · rw [he] at k; cases k

theorem ne_halted_of_editRuns {s : State} (h : editRuns s = true) : s.ctl.engine ≠ .halted := by
  intro e
  simp [editRuns, e] at h

theorem execNozzleEditStaged_steps (s : State) : ∃ t, execNozzleEditStaged s = .next t ∧ Steps s t := by
  unfold execNozzleEditStaged
  split
  next e next hw =>
    split
    next hr =>
      exact ⟨_, rfl, carryOutEdit_steps e next s (.inl hw) (ne_halted_of_editRuns (Bool.and_eq_true_iff.1 hr).1)⟩
    next => exact ⟨_, rfl, .refl s⟩
  all_goals exact ⟨_, rfl, .refl s⟩

theorem execNozzleEditImmediate_steps (s : State) : ∃ t, execNozzleEditImmediate s = .next t ∧ Steps s t := by
  unfold execNozzleEditImmediate
  split
  next e next hw =>
    split
    next hr =>
      obtain ⟨hr, -⟩ := Bool.and_eq_true_iff.1 hr
      exact ⟨_, rfl, carryOutEdit_steps e next s (.inl hw) (ne_halted_of_editRuns (Bool.and_eq_true_iff.1 hr).1)⟩
    next => exact ⟨_, rfl, .refl s⟩
  all_goals exact ⟨_, rfl, .refl s⟩

theorem takeWaitingEdit_steps (h : HeadId) (s : State) : Steps s (takeWaitingEdit h s) := by
  unfold takeWaitingEdit
  split
  next e next hw =>
    refine .ite (fun hr => ?_) fun _ => .refl s
    have hidle : s.reader.work ≠ .idle := by rw [hw]; nofun
    exact .after (carryOutEdit_steps e next _ (.inr hw) (ne_halted_of_reading hr.1)) (setCond_steps _ s hidle)
  all_goals exact .refl s

theorem execStagedPromotion_steps (h : HeadId) (s : State) : ∃ t, execStagedPromotion h s = .next t ∧ Steps s t := by
  unfold execStagedPromotion
  split
  next st hst =>
    split
    · exact ⟨_, rfl, .after (takeWaitingEdit_steps h _)
        (.setMap s h _ (fun _ _ _ _ => rfl) fun k => ⟨k.staged h st hst, nofun⟩)⟩
    · exact ⟨_, rfl, .refl s⟩
  next => exact ⟨_, rfl, .refl s⟩

end Sys2Proof.Machine

/-! PROOFS. The commands of the Band Window and of the Layout Store, PRODUCT_EDGE and the ends of DRAINING and ABORTING:
each answers with a next state that keeps the laws (chapters 1, 3, 4 and 9). -/

namespace Sys2Proof.Machine

/-! ## The window and the channels -/

/-- The window changed, with the laws that speak of it kept. -/
theorem Keeps.withWin (s : State) (w : Window) (hqueue : ProductQueueLaw s → ProductQueueLaw (s.withWin w))
    (hwindow : WindowLaw s → WindowLaw (s.withWin w)) (hnumbering : NumberingLaw s → NumberingLaw (s.withWin w))
    (horder : PageOrderLaw s → PageOrderLaw (s.withWin w))
    (hcounts : BandCountLaw s → BandCountLaw (s.withWin w)) : Keeps s (s.withWin w) :=
  { Keeps.refl s with
    productQueue := hqueue, window := hwindow, numbering := hnumbering, pageOrder := horder, interrupt := id
    lineQueues := id, bandCounts := hcounts
    nozzleSets := fun h => ⟨h.active, h.staged, h.nozzles, h.drained⟩
    addresses := id, services := id }

/-- The window changed while the rest stands. -/
theorem Steps.of_withWin {s : State} {w : Window} (h : Keeps s (s.withWin w)) : Steps s (s.withWin w) :=
  { h, Frames.refl s with
    pos := rfl, layout := rfl, enables := rfl, listHead := rfl, suspension := id, halted := .of_ctl rfl }

/-- Channels changed within the law of their queues. -/
theorem Steps.withChans (s : State) (f : ChanId → Channel) (hf : ∀ c, (s.chan c).QueueLaw → (f c).QueueLaw) :
    Steps s (s.withChans (tabulate 32 f)) :=
  .of_runs_ctl
    { Runs.refl s with
      queues := fun h c => by
        rw [State.withChans_chan, getElem_tabulate]
        exact hf c (h c) }
    rfl

/-- A binding of pages keeps the laws, and leaves reader and engine alone. -/
theorem Steps.of_binds {s t : State} (h : Binds s t) : Steps s t where
  pending := h.pending
  productQueue := h.productQueueLaw
  window := h.windowLaw
  numbering := h.numberingLaw
  pageOrder := h.pageOrderLaw
  interrupt x := by unfold InterruptLaw; rw [h.ctl]; exact x
  lineQueues := h.queues
  bandCounts := h.bandCountLaw
  nozzleSets x := by
    have hm : ∀ g, t.map g = s.map g := fun g => by unfold State.map; rw [h.maps]
    refine ⟨fun g => ?_, fun g st e => ?_, by rw [h.layout]; exact x.nozzles, fun y l n e g => ?_⟩
    · rw [hm, h.layout]; exact x.active g
    · rw [h.layout]; rw [hm] at e; exact x.staged g st e
    · rw [hm]; exact x.drained y l n (h.reader ▸ e) g
  addresses x := by unfold RecordAddressLaw; rw [h.reader]; exact x
  services := h.service
  pos := by rw [h.posn]
  layout := h.layout
  enables := by rw [h.ctl]
  listHead := by rw [h.reader]
  suspension x := by unfold SuspensionLaw; rw [h.ctl, h.reader]; exact x
  halted := .of_ctl h.ctl

theorem removePages_steps (s : State) : Steps s (removePages s) := .of_binds (removePages_binds s)

/-! ## Opening, joining and ending a page (R45, R46) -/

/-- The page record that a PAGE_START band opens. -/
def openedPage (b : BandRecord) (s : State) : Page :=
  { id := s.win.nextPage, continuous := b.continuous, binding := if b.continuous then .following else .unbound,
    count := 0, ended := false, firstBand := s.win.nextBand,
    pred := if s.win.firstPage then none else match s.win.openPage with
      | some id => some id
      | none => s.win.prevPage }

/-- The open page, ended by a page that opens behind it (R45). -/
def endedBehind (w : Window) (p : Page) : Page := { p with ended := p.ended || decide (w.openPage = some p.id) }

theorem openPage_eq (b : BandRecord) (s : State) :
    openPage b s = s.withWin { s.win with
      pages := s.win.pages.map (endedBehind s.win) ++ [openedPage b s]
      openPage := some s.win.nextPage
      prevPage := match s.win.openPage with
        | some id => some id
        | none => s.win.prevPage
      firstPage := false
      nextPage := s.win.nextPage + 1 } := by
  unfold openPage openedPage
  cases h : s.win.openPage with
  | none =>
    have hmap : s.win.pages.map (endedBehind s.win) = s.win.pages := by
      refine List.map_id'' (fun p => ?_) _
      simp [endedBehind, h]
    rw [hmap]
  | some id =>
    have hmap : (s.win.pages.map fun p => if p.id = id then { p with ended := true } else p) =
        s.win.pages.map (endedBehind s.win) := by
      refine List.map_congr_left fun p _ => ?_
      by_cases hp : p.id = id
      · simp [endedBehind, h, hp]
      · simp [endedBehind, h, hp, Ne.symm hp]
    rw [← hmap]
    rfl

theorem endedBehind_place (w : Window) (p : Page) : (endedBehind w p).place = p.place := rfl

/-- The entry with which a band joins page `p`: LATE and owing nothing when the page is LATE (R55). -/
def joinedEntry (b : BandRecord) (p : Page) (s : State) : BandEntry :=
  match p.binding with
  | .late _ => { newEntry s b p.id p.count with late := true, outstanding := 0 }
  | .unbound | .following | .bound _ => newEntry s b p.id p.count

theorem joinedEntry_id (b : BandRecord) (p : Page) (s : State) : (joinedEntry b p s).id = s.win.nextBand := by
  unfold joinedEntry
  split <;> rfl

/-- A band comes with LINES × K owed, or LATE with nothing owed (R43, R55). -/
theorem joinedEntry_counts (b : BandRecord) (p : Page) (s : State) : (joinedEntry b p s).CountLaw s.layout := by
  unfold joinedEntry
  split
  · exact ⟨Nat.le_refl _, fun _ => rfl, nofun⟩
  all_goals exact ⟨Nat.le_refl _, nofun, fun _ => Nat.le_add_right _ _⟩

/-- The page whose line count has grown by a band's lines (R46). -/
def countedPage (b : BandRecord) (id : Nat) (p : Page) : Page :=
  if p.id = id then { p with count := min (p.count + b.lines.toNat) (Config.anchorTop - 1) } else p

theorem countedPage_place (b : BandRecord) (id : Nat) (p : Page) : (countedPage b id p).place = p.place := by
  unfold countedPage
  split <;> rfl

theorem joinPage_eq (b : BandRecord) (p : Page) (s : State) :
    joinPage b p s = joinSequence (joinedEntry b p s) (s.withWin { s.win with
      bands := s.win.bands ++ [joinedEntry b p s]
      pages := s.win.pages.map (countedPage b p.id)
      nextBand := s.win.nextBand + 1 }) := by
  unfold joinPage joinedEntry
  cases p.binding <;> rfl

theorem joinSequence_steps (b : BandEntry) (s : State) : Steps s (joinSequence b s) := by
  refine .withChans s _ fun c h => ?_
  split
  · exact h
  · exact h

/-- Pages with the same places keep the order of pages. -/
theorem pages_pairwise_of_place {f : Page → Page} (hf : ∀ p, (f p).place = p.place) {l : List Page}
    (h : l.Pairwise fun p q => p.id < q.id) : (l.map f).Pairwise fun p q => p.id < q.id := by
  rw [List.pairwise_map]
  refine h.imp fun {p q} hpq => ?_
  rw [show (f p).id = p.id from congrArg Prod.fst (hf p), show (f q).id = q.id from congrArg Prod.fst (hf q)]
  exact hpq

theorem mem_map_place {f : Page → Page} (hf : ∀ p, (f p).place = p.place) {l : List Page} {q : Page}
    (h : q ∈ l.map f) : ∃ p ∈ l, q.id = p.id ∧ q.pred = p.pred ∧ q.firstBand = p.firstBand := by
  obtain ⟨p, hp, rfl⟩ := List.mem_map.1 h
  obtain ⟨h1, h2⟩ := Prod.mk.inj (hf p)
  obtain ⟨h2, h3⟩ := Prod.mk.inj h2
  exact ⟨p, hp, h1, h2, h3⟩

/-- What opening a page keeps of the laws that speak of the window, but that its first band is yet to come. -/
structure Opens (s t : State) : Prop where
  unbound : t.win.unbound = s.win.unbound
  bands : t.win.bands = s.win.bands
  nextBand : t.win.nextBand = s.win.nextBand
  numbering : NumberingLaw s → NumberingLaw t
  openPage : PageOrderLaw s → ∀ id, t.win.openPage = some id → id < t.win.nextPage
  prevPage : PageOrderLaw s → ∀ id, t.win.prevPage = some id → id < t.win.nextPage
  pred : PageOrderLaw s → ∀ p ∈ t.win.pages, ∀ id, p.pred = some id → id < p.id
  firstBand : PageOrderLaw s → ∀ p ∈ t.win.pages, p.firstBand < s.win.nextBand + 1

theorem Opens.refl (s : State) : Opens s s where
  unbound := rfl
  bands := rfl
  nextBand := rfl
  numbering := id
  openPage h := h.openPage
  prevPage h := h.prevPage
  pred h := h.pred
  firstBand h p hp := Nat.lt_succ_of_lt (h.firstBand p hp)

theorem openedPage_pred_lt {s : State} (h : PageOrderLaw s) (b : BandRecord) {id : Nat}
    (hid : (openedPage b s).pred = some id) : id < s.win.nextPage := by
  simp only [openedPage] at hid
  split at hid
  · cases hid
  · split at hid
    next k hk => cases hid; exact h.openPage _ hk
    next => exact h.prevPage _ hid

theorem openPage_opens (b : BandRecord) (s : State) : Opens s (openPage b s) := by
  have hplace := endedBehind_place s.win
  rw [openPage_eq]
  refine { unbound := rfl, bands := rfl, nextBand := rfl, numbering := fun h => ?_, openPage := fun h id e => ?_,
           prevPage := fun h id e => ?_, pred := fun h p hp id e => ?_, firstBand := fun h p hp => ?_ }
  · refine ⟨h.bands, h.nextBand, List.pairwise_append.2 ⟨pages_pairwise_of_place hplace h.pages,
      List.pairwise_singleton _ _, fun p hp q hq => ?_⟩, fun p hp => ?_⟩
    · rw [List.mem_singleton.1 hq]
      obtain ⟨p', hp', hid, -⟩ := mem_map_place hplace hp
      rw [hid]
      exact h.nextPage p' hp'
    · rcases List.mem_append.1 hp with hp | hp
      · obtain ⟨p', hp', hid, -⟩ := mem_map_place hplace hp
        rw [hid]
        exact Nat.lt_succ_of_lt (h.nextPage p' hp')
      · rw [List.mem_singleton.1 hp]
        exact Nat.lt_succ_self _
  · cases e
    exact Nat.lt_succ_self _
  · refine Nat.lt_succ_of_lt ?_
    simp only [State.withWin_win] at e
    split at e
    next k hk => cases e; exact h.openPage _ hk
    next => exact h.prevPage _ e
  · rcases List.mem_append.1 hp with hp | hp
    · obtain ⟨p', hp', hid, hpred, -⟩ := mem_map_place hplace hp
      rw [hid]
      exact h.pred p' hp' id (hpred.symm.trans e)
    · rw [List.mem_singleton.1 hp] at e ⊢
      exact openedPage_pred_lt h b e
  · rcases List.mem_append.1 hp with hp | hp
    · obtain ⟨p', hp', -, -, hfirst⟩ := mem_map_place hplace hp
      rw [hfirst]
      exact Nat.lt_succ_of_lt (h.firstBand p' hp')
    · rw [List.mem_singleton.1 hp]
      exact Nat.lt_succ_self _

/-- With no page to belong to, a band takes its number alone (R60). -/
theorem Opens.skip {r s : State} (o : Opens r s) (hs : s = r.withWin s.win) :
    Steps r (s.withWin { s.win with nextBand := s.win.nextBand + 1 }) := by
  have heq : s.withWin { s.win with nextBand := s.win.nextBand + 1 } =
      r.withWin { s.win with nextBand := s.win.nextBand + 1 } := by
    conv_lhs => rw [hs]
    rfl
  rw [heq]
  have hunbound := o.unbound
  have hbands := o.bands
  refine .of_withWin (.withWin r _ (fun h => ?_) (fun h => ?_) (fun h => ?_) (fun h => ?_) fun h => ?_)
  · exact ⟨h.1, by simpa [hunbound] using h.2⟩
  · exact ⟨by simpa only [State.withWin_win, hbands] using h.1,
      fun e => by simpa only [State.withWin_win, hbands] using h.2 e⟩
  · have k := o.numbering h
    exact ⟨k.bands, fun b hb => Nat.lt_succ_of_lt (k.nextBand b hb), k.pages, k.nextPage⟩
  · exact ⟨o.openPage h, o.prevPage h, o.pred h, by
      intro p hp
      show p.firstBand < s.win.nextBand + 1
      rw [o.nextBand]
      exact o.firstBand h p hp⟩
  · exact ⟨by simpa [hbands] using h.1, fun x l n e => by simpa [hbands] using h.2 x l n e⟩

/-- A band joins the window's tail where it has room (R42, R43). -/
theorem Opens.join {r s : State} (o : Opens r s) (hs : s = r.withWin s.win) (b : BandRecord) (p : Page)
    (hroom : r.win.bands.length < Config.windowMax) (hengine : r.ctl.engine ≠ .stopped)
    (hblock : ∀ x l n, r.reader.work ≠ .blockRead x l n) : Steps r (joinPage b p s) := by
  rw [joinPage_eq]
  refine .after (joinSequence_steps _ _) ?_
  have hplace := countedPage_place b p.id
  have hcount := joinedEntry_counts b p s
  have hid := joinedEntry_id b p s
  have hunbound := o.unbound
  have hbands := o.bands
  generalize joinedEntry b p s = e at hcount hid ⊢
  have heq : ∀ w, s.withWin w = r.withWin w := by
    intro w
    conv_lhs => rw [hs]
    rfl
  rw [heq]
  refine .of_withWin (.withWin r _ (fun h => ?_) (fun h => ?_) (fun h => ?_) (fun h => ?_) fun h => ?_)
  · exact ⟨h.1, by simpa [hunbound] using h.2⟩
  · refine ⟨?_, fun e => absurd e hengine⟩
    simp only [State.withWin_win, hbands, List.length_append, List.length_singleton]
    omega
  · have k := o.numbering h
    refine ⟨List.pairwise_append.2 ⟨k.bands, List.pairwise_singleton _ _, fun x hx y hy => ?_⟩, fun x hx => ?_,
      pages_pairwise_of_place hplace k.pages, fun q hq => ?_⟩
    · rw [List.mem_singleton.1 hy, hid]
      exact k.nextBand x hx
    · rcases List.mem_append.1 hx with hx | hx
      · exact Nat.lt_succ_of_lt (k.nextBand x hx)
      · rw [List.mem_singleton.1 hx, hid]
        exact Nat.lt_succ_self _
    · obtain ⟨q', hq', hid', -⟩ := mem_map_place hplace hq
      rw [hid']
      exact k.nextPage q' hq'
  · refine ⟨o.openPage h, o.prevPage h, fun q hq id e => ?_, fun q hq => ?_⟩
    · obtain ⟨q', hq', hid', hpred, -⟩ := mem_map_place hplace hq
      rw [hid']
      exact o.pred h q' hq' id (hpred.symm.trans e)
    · obtain ⟨q', hq', -, -, hfirst⟩ := mem_map_place hplace hq
      rw [hfirst]
      show q'.firstBand < s.win.nextBand + 1
      rw [o.nextBand]
      exact o.firstBand h q' hq'
  · refine ⟨fun x hx => ?_, fun x l n e => absurd e (hblock x l n)⟩
    rcases List.mem_append.1 hx with hx | hx
    · exact h.1 x (hbands ▸ hx)
    · rw [List.mem_singleton.1 hx]
      have hlay : s.layout = r.layout := by rw [hs]; rfl
      exact hlay ▸ hcount

theorem endPage_eq (id : Nat) (s : State) :
    endPage id s = s.withWin { s.win with
      pages := s.win.pages.map fun p => if p.id = id then { p with ended := true } else p
      openPage := none
      prevPage := some id } := rfl

/-- The open page ends (R45, R46). -/
theorem endPage_steps (id : Nat) (s : State) (hopen : s.win.openPage = some id) : Steps s (endPage id s) := by
  have hplace : ∀ p : Page, (if p.id = id then { p with ended := true } else p).place = p.place := by
    intro p
    split <;> rfl
  rw [endPage_eq]
  refine .of_withWin (.withWin s _ (fun h => h) (fun h => h) (fun h => ?_) (fun h => ?_) fun h => h)
  · refine ⟨h.bands, h.nextBand, pages_pairwise_of_place hplace h.pages, fun q hq => ?_⟩
    obtain ⟨q', hq', hid', -⟩ := mem_map_place hplace hq
    rw [hid']
    exact h.nextPage q' hq'
  · refine ⟨nofun, fun k e => ?_, fun q hq k e => ?_, fun q hq => ?_⟩
    · cases e
      exact h.openPage _ hopen
    · obtain ⟨q', hq', hid', hpred, -⟩ := mem_map_place hplace hq
      rw [hid']
      exact h.pred q' hq' k (hpred.symm.trans e)
    · obtain ⟨q', hq', -, -, hfirst⟩ := mem_map_place hplace hq
      rw [hfirst]
      exact h.firstBand q' hq'

theorem bindFrom_steps (p : Page) (a : Nat) (s : State) : Steps s (bindFrom p a s) := .of_binds (bindFrom_binds p a s)

/-- A page that waits for a capture joins the unbound list while no capture is queued (R12, R50). -/
theorem bindOpened_steps (p : Page) (offset : Nat) (s : State) : Steps s (bindOpened p offset s) := by
  unfold bindOpened
  split
  · split
    · exact bindFrom_steps ..
    · split
      · exact bindFrom_steps ..
      · exact .refl s
  · split
    next q qs hq =>
      refine .after (bindFrom_steps ..) (.withPosn s _ (fun h => ?_) rfl)
      unfold ProductQueueLaw at h
      rw [hq] at h
      exact ⟨(Nat.le_succ _).trans h.1, .inr (h.2.resolve_left nofun)⟩
    next hq =>
      exact .of_withWin (.withWin s _ (fun h => ⟨h.1, .inl hq⟩) id (fun h => ⟨h.bands, h.nextBand, h.pages, h.nextPage⟩)
        (fun h => ⟨h.openPage, h.prevPage, h.pred, h.firstBand⟩) id)

/-! ## Admission (R43, R45 to R51) -/

/-- The page a band finds open, after the page that it may itself have opened. -/
def pageFor (b : BandRecord) (s : State) : State := if b.pageStart then openPage b s else s

theorem pageFor_opens (b : BandRecord) (s : State) : Opens s (pageFor b s) := by
  unfold pageFor
  split
  · exact openPage_opens b s
  · exact .refl s

theorem pageFor_eq_withWin (b : BandRecord) (s : State) : pageFor b s = s.withWin (pageFor b s).win := by
  unfold pageFor
  split
  · rw [openPage_eq]; rfl
  · rfl

/-- The band's page: found open, joined, ended for PAGE_END and bound for PAGE_START. -/
theorem placeBand_eq (b : BandRecord) (s : State) :
    placeBand b s =
      match (pageFor b s).win.openPage.bind (findPage (pageFor b s)) with
      | none => handOver (noPageUnit (pageFor b s) b)
          ((pageFor b s).withWin { (pageFor b s).win with nextBand := (pageFor b s).win.nextBand + 1 })
      | some p =>
        let s2 := joinPage b p (pageFor b s)
        let s3 := if b.pageEnd then endPage p.id s2 else s2
        removePages (if b.pageStart then bindOpened p b.offset.toNat s3 else s3) := rfl

theorem findPage_id {s : State} {id : Nat} {p : Page} (h : findPage s id = some p) : p.id = id := by
  have := List.find?_some h
  simpa using this

theorem openPage_bind_findPage {s t : State} {p : Page} (h : s.win.openPage.bind (findPage t) = some p) :
    s.win.openPage = some p.id := by
  obtain ⟨id, hid, hp⟩ := Option.bind_eq_some_iff.1 h
  rw [hid, findPage_id hp]

theorem placeBand_steps (b : BandRecord) (s : State) (hroom : s.win.bands.length < Config.windowMax)
    (hengine : s.ctl.engine ≠ .stopped) (hblock : ∀ x l n, s.reader.work ≠ .blockRead x l n) :
    Steps s (placeBand b s) := by
  have o := pageFor_opens b s
  have hs := pageFor_eq_withWin b s
  rw [placeBand_eq]
  generalize pageFor b s = s1 at o hs
  split
  next => exact .after (handOver_steps _ _) (o.skip hs)
  next p hp =>
    have hjoin : Steps s (joinPage b p s1) := o.join hs b p hroom hengine hblock
    have hopen : (joinPage b p s1).win.openPage = some p.id := by
      rw [joinPage_eq]
      exact openPage_bind_findPage hp
    have hend : Steps s (if b.pageEnd then endPage p.id (joinPage b p s1) else joinPage b p s1) :=
      .ite (fun _ => .after (endPage_steps p.id _ hopen) hjoin) fun _ => hjoin
    exact .after (removePages_steps _) (.ite (fun _ => .after (bindOpened_steps _ _ _) hend) fun _ => hend)

theorem bindOpened_reader_ctl (p : Page) (offset : Nat) (s : State) :
    (bindOpened p offset s).reader = s.reader ∧ (bindOpened p offset s).ctl = s.ctl := by
  unfold bindOpened
  split
  · split
    · exact ⟨(bindFrom_binds _ _ _).reader, (bindFrom_binds _ _ _).ctl⟩
    · split
      · exact ⟨(bindFrom_binds _ _ _).reader, (bindFrom_binds _ _ _).ctl⟩
      · exact ⟨rfl, rfl⟩
  · split
    · exact ⟨(bindFrom_binds _ _ _).reader, (bindFrom_binds _ _ _).ctl⟩
    · exact ⟨rfl, rfl⟩

theorem joinPage_reader_ctl (b : BandRecord) (p : Page) (s : State) :
    (joinPage b p s).reader = s.reader ∧ (joinPage b p s).ctl = s.ctl := by
  rw [joinPage_eq]
  exact ⟨rfl, rfl⟩

/-- Placing a band leaves the reader and the engine as they are. -/
theorem placeBand_reader_engine (b : BandRecord) (s : State) :
    (placeBand b s).reader = s.reader ∧ (placeBand b s).ctl.engine = s.ctl.engine := by
  have hs := pageFor_eq_withWin b s
  have hr : (pageFor b s).reader = s.reader := by rw [hs]; rfl
  have hc : (pageFor b s).ctl = s.ctl := by rw [hs]; rfl
  rw [placeBand_eq]
  generalize pageFor b s = s1 at hr hc
  split
  · rw [handOver_reader, handOver_engine]
    exact ⟨hr, congrArg EngineControl.engine hc⟩
  next p _ =>
    obtain ⟨jr, jc⟩ := joinPage_reader_ctl b p s1
    dsimp only
    have hend : ∀ s2 : State, (if b.pageEnd then endPage p.id s2 else s2).reader = s2.reader ∧
        (if b.pageEnd then endPage p.id s2 else s2).ctl = s2.ctl := by
      intro s2
      split <;> exact ⟨rfl, rfl⟩
    obtain ⟨er, ec⟩ := hend (joinPage b p s1)
    generalize (if b.pageEnd then endPage p.id (joinPage b p s1) else joinPage b p s1) = s3 at er ec
    have hbind : (if b.pageStart then bindOpened p b.offset.toNat s3 else s3).reader = s3.reader ∧
        (if b.pageStart then bindOpened p b.offset.toNat s3 else s3).ctl = s3.ctl := by
      split
      · exact bindOpened_reader_ctl ..
      · exact ⟨rfl, rfl⟩
    obtain ⟨br, bc⟩ := hbind
    exact ⟨br.trans (er.trans (jr.trans hr)), congrArg EngineControl.engine (bc.trans (ec.trans (jc.trans hc)))⟩

theorem execBandAdmit_steps (s : State) : ∃ t, execBandAdmit s = .next t ∧ Steps s t := by
  unfold execBandAdmit
  split
  next b next hw =>
    have hnext : s.reader.work.next = some next := by rw [hw]; rfl
    split
    next hr =>
      split
      · exact ⟨_, rfl, halt_steps _ s⟩
      · split
        next hroom =>
          have hplace := placeBand_steps b s hroom (by rcases reading_engine hr with e | e <;> simp [e])
            (by rw [hw]; nofun)
          refine ⟨_, rfl, .after (settleAll_steps _) (followNext_steps_after next hplace (work_ne_idle_of_next hnext)
            (fun e => ?_) (aligned_of_next hnext))⟩
          rw [(placeBand_reader_engine b s).2] at e
          exact e
        next => exact ⟨_, rfl, .refl s⟩
    next => exact ⟨_, rfl, .refl s⟩
  all_goals exact ⟨_, rfl, .refl s⟩

/-! ## Closes (R58, R59) -/

theorem removeHeadBand_pages (b : BandEntry) (s : State) :
    (removeHeadBand b s).win.pages.Sublist s.win.pages :=
  List.filter_sublist

/-- The head band leaves the window, its reader and engine standing. -/
theorem removeHeadBand_steps (b : BandEntry) (s : State) : Steps s (removeHeadBand b s) := by
  have hpages := removeHeadBand_pages b s
  obtain ⟨hpend, htick, hposn, hreader, hlayout, hport, hctl, hwin, hmaps, hchans, hheads⟩ := removeHeadBand_spec b s
  have hbands : (removeHeadBand b s).win.bands = s.win.bands.tail := by rw [hwin]
  generalize removeHeadBand b s = t at *
  refine { pending := hpend, productQueue := fun h => ?_, window := fun h => ?_, numbering := fun h => ?_,
           pageOrder := fun h => ?_, interrupt := fun h => ?_, lineQueues := fun h c => ?_, bandCounts := fun h => ?_,
           nozzleSets := fun h => ?_, addresses := fun h => ?_, services := fun h g => ?_,
           pos := by rw [hposn], layout := hlayout, enables := by rw [hctl], listHead := by rw [hreader],
           suspension := fun h => ?_, halted := .of_ctl hctl }
  · unfold ProductQueueLaw; rw [hposn, hwin]; exact h
  · refine ⟨by rw [hbands, List.length_tail]; exact (Nat.sub_le _ _).trans h.1, fun e => ?_⟩
    rw [hbands, h.2 (hctl ▸ e)]
    rfl
  · refine ⟨by rw [hbands]; exact h.bands.sublist (List.tail_sublist _), fun x hx => ?_, h.pages.sublist hpages,
      fun p hp => ?_⟩
    · rw [hwin]; exact h.nextBand x (List.mem_of_mem_tail (hbands ▸ hx))
    · rw [hwin]; exact h.nextPage p (hpages.subset hp)
  · exact ⟨by rw [hwin]; exact h.openPage, by rw [hwin]; exact h.prevPage, fun p hp => h.pred p (hpages.subset hp),
      fun p hp => by rw [hwin]; exact h.firstBand p (hpages.subset hp)⟩
  · unfold InterruptLaw; rw [hctl]; exact h
  · obtain ⟨hq, hl⟩ := hchans c
    unfold Channel.QueueLaw
    rw [hq, hl]
    exact h c
  · refine ⟨fun x hx => by rw [hlayout]; exact h.1 x (List.mem_of_mem_tail (hbands ▸ hx)), fun x l n e => ?_⟩
    rw [hbands, h.2 x l n (hreader ▸ e)]
    rfl
  · refine ⟨fun g => ?_, fun g st e => ?_, by rw [hlayout]; exact h.nozzles, fun x l n e g => ?_⟩
    · rw [(hmaps g).1, hlayout]; exact h.active g
    · rw [(hmaps g).2] at e
      obtain ⟨st', hst', rfl⟩ := Option.map_eq_some_iff.1 e
      rw [hlayout]
      exact h.staged g st' hst'
    · rw [(hmaps g).2, h.drained x l n (hreader ▸ e) g]
      rfl
  · unfold RecordAddressLaw; rw [hreader]; exact h
  · rw [hheads g]; exact giveUpReturn_law _ _ (h g)
  · unfold SuspensionLaw; rw [hctl, hreader]; exact h

theorem execBandClose_steps (s : State) : ∃ t, execBandClose s = .next t ∧ Steps s t := by
  unfold execBandClose
  split
  · exact ⟨_, rfl, .refl s⟩
  · split
    · exact ⟨_, rfl, .after (removeHeadBand_steps _ _) (handOver_steps _ s)⟩
    · exact ⟨_, rfl, .refl s⟩

/-! ## PRODUCT_EDGE (R9 to R13) -/

/-- A capture goes to the oldest unbound page while none is queued, or to a queue with room (R12, R13). -/
theorem takeCapture_steps (q : BitVec 40) (s : State) : Steps s (takeCapture q s) := by
  unfold takeCapture
  split
  next id ids hu =>
    dsimp only
    have hwin : Steps s (s.withWin { s.win with unbound := ids }) :=
      .of_withWin (.withWin s _
        (fun h => ⟨h.1, .inl (h.2.resolve_right (by rw [hu]; nofun))⟩) (fun h => h)
        (fun h => ⟨h.bands, h.nextBand, h.pages, h.nextPage⟩)
        (fun h => ⟨h.openPage, h.prevPage, h.pred, h.firstBand⟩) fun h => h)
    split
    · exact .after (settleAll_steps _) (.after (removePages_steps _) (.after (bindFrom_steps _ _ _) hwin))
    · exact hwin
  next hu =>
    refine .ite (fun hroom => .withPosn s _ (fun h => ⟨?_, .inr hu⟩) rfl) fun _ => raise_steps _ s
    simp only [State.withPosn_posn, List.length_append, List.length_singleton]
    omega

theorem takeEdge_steps (s : State) : Steps s (takeEdge s) := by
  unfold takeEdge
  exact .ite (fun _ => .after (takeCapture_steps _ _) (.withPosn s _ id rfl)) fun _ => .refl s

theorem execProductEdge_steps (s : State) : ∃ t, execProductEdge s = .next t ∧ Steps s t := by
  unfold execProductEdge
  split
  · exact ⟨_, rfl, setLevel_steps _ s⟩
  · split
    · exact ⟨_, rfl, .refl s⟩
    · exact ⟨_, rfl, .after (takeEdge_steps _) (setLevel_steps _ s)⟩

/-! ## Layout records (R30, R67 to R81) -/

theorem noneStaged_iff (s : State) : noneStaged s = true ↔ ∀ h, (s.map h).staged = none := by
  simp [noneStaged, allHeads]

/-- A block read begins over an empty window with every STAGED set promoted (R30, R67). -/
theorem execLayoutTaken_steps (s : State) : ∃ t, execLayoutTaken s = .next t ∧ Steps s t := by
  unfold execLayoutTaken
  split
  next l next hw =>
    split
    next hc =>
      obtain ⟨hc, hstaged⟩ := Bool.and_eq_true_iff.1 hc
      obtain ⟨hr, hbands⟩ := Bool.and_eq_true_iff.1 hc
      have hidle : s.reader.work ≠ .idle := by rw [hw]; nofun
      refine ⟨_, rfl, .after (startTransfer_steps ..) ?_⟩
      have hreads : Reads s (setWork (.blockRead s.port.nextXfer l next) (setCond .reading s)) :=
        .withReader s _ (by rfl)
      exact
        { (Keeps.refl s).then_reads hreads
            (fun _ _ _ _ => .inr ⟨List.isEmpty_iff.1 hbands, (noneStaged_iff s).1 hstaged⟩) .inl
            (fun h => ⟨h.1, h.2.1, fun n e => by cases e; exact h.2.2 _ (by rw [hw]; rfl)⟩),
          Frames.of_reads hreads with
          suspension := suspensionLaw_of_work hidle .inl
          halted := .of_ctl rfl }
    next => exact ⟨_, rfl, .refl s⟩
  all_goals exact ⟨_, rfl, .refl s⟩

theorem execLayoutRecordClose_steps (s : State) : ∃ t, execLayoutRecordClose s = .next t ∧ Steps s t := by
  unfold execLayoutRecordClose
  split
  next l flags next hw =>
    have hnext : s.reader.work.next = some next := by rw [hw]; rfl
    split
    · refine ⟨_, rfl, followNext_steps_after next (handOver_steps _ s) (work_ne_idle_of_next hnext) ?_
        (aligned_of_next hnext)⟩
      rw [closeLayout, handOver_engine]
      exact id
    · exact ⟨_, rfl, .refl s⟩
  all_goals exact ⟨_, rfl, .refl s⟩

/-! ## The ends of DRAINING and ABORTING (R181, R187) -/

theorem workDone_bands {s : State} (h : workDone s = true) : s.win.bands = [] := by
  simp only [workDone, Bool.and_eq_true, List.isEmpty_iff] at h
  exact h.1.1.1

/-- The engine stops over an empty window with no record in hand. -/
theorem stop_steps (s : State) (hbands : s.win.bands = []) (hhalt : s.ctl.engine ≠ .halted) :
    Steps s (setEngine .stopped (setWork .idle s)) := by
  have hreads : Reads s (setEngine .stopped (setWork .idle s)) :=
    (Reads.withReader s _ (by rfl)).trans { Reads.refl _ with kept := ⟨rfl, rfl, rfl⟩, irq := id }
  exact
    { (Keeps.refl s).then_reads hreads nofun (fun _ => .inr hbands) (fun h => ⟨h.1, h.2.1, nofun⟩),
      Frames.of_reads hreads with
      suspension := fun _ => nofun
      halted := fun e => absurd e hhalt }

theorem drainEnds_steps (s : State) : Steps s (drainEnds s) := by
  unfold drainEnds
  refine .ite (fun h => ?_) fun _ => .refl s
  exact .after (raise_steps _ _) (stop_steps s (workDone_bands h.2) (by rw [h.1]; nofun))

/-- The page state of R44's table over the bands that stand. -/
theorem clearedPages_steps (s : State) : Steps s (s.withWin (clearedPages s.win)) :=
  .of_withWin (.withWin s _ (fun h => ⟨h.1, .inr rfl⟩) id
    (fun h => ⟨h.bands, h.nextBand, .nil, nofun⟩) (fun _ => ⟨nofun, nofun, nofun, nofun⟩) id)

theorem abortEnds_steps (s : State) : Steps s (abortEnds s) := by
  unfold abortEnds
  refine .ite (fun h => ?_) fun _ => .refl s
  exact .after (raise_steps _ _)
    (.after (stop_steps _ (workDone_bands h.2) (by rw [State.withWin_ctl, h.1]; nofun)) (clearedPages_steps s))

end Sys2Proof.Machine

/-! PROOFS. The application of a layout and the commands of the host: each answers with a next state that keeps the
laws (chapters 4 and 9). -/

namespace Sys2Proof.Machine

/-! ## Heads treated one after another -/

theorem foldl_head_of_notMem {f : State → HeadId → State} (hother : ∀ s h g, g ≠ h → (f s h).head g = s.head g)
    (l : List HeadId) (s : State) {h : HeadId} (hh : h ∉ l) : (l.foldl f s).head h = s.head h := by
  induction l generalizing s with
  | nil => rfl
  | cons g l ih =>
    obtain ⟨hne, hl⟩ := not_or.1 (mt List.mem_cons.2 hh)
    exact (ih _ hl).trans (hother s g h hne)

/-- Each head is treated once, when the heads before it have been, and is left as its own turn leaves it. -/
theorem foldl_head_of_mem {f : State → HeadId → State} {ps : List Part} (hf : ∀ s h, OnlyChanges ps s (f s h))
    (hother : ∀ s h g, g ≠ h → (f s h).head g = s.head g) (l : List HeadId) (hnodup : l.Nodup) (s : State) {h : HeadId}
    (hh : h ∈ l) : ∃ u, OnlyChanges ps s u ∧ u.head h = s.head h ∧ (l.foldl f s).head h = (f u h).head h := by
  induction l generalizing s with
  | nil => cases hh
  | cons g l ih =>
    obtain ⟨hg, hl⟩ := List.nodup_cons.1 hnodup
    rcases List.mem_cons.1 hh with rfl | hmem
    · exact ⟨s, .refl _ s, rfl, foldl_head_of_notMem hother l _ hg⟩
    · obtain ⟨u, hu, hsame, hend⟩ := ih hl (f s g) hmem
      have hne : h ≠ g := fun e => hg (e ▸ hmem)
      exact ⟨u, (hf s g).trans_same hu, hsame.trans (hother s g h hne), hend⟩

theorem foldl_allHeads_head {f : State → HeadId → State} {ps : List Part} (hf : ∀ s h, OnlyChanges ps s (f s h))
    (hother : ∀ s h g, g ≠ h → (f s h).head g = s.head g) (s : State) (h : HeadId) :
    ∃ u, OnlyChanges ps s u ∧ u.head h = s.head h ∧ (allHeads.foldl f s).head h = (f u h).head h :=
  foldl_head_of_mem hf hother allHeads (List.nodup_finRange 16) s (List.mem_finRange h)

/-! ## The application of a layout (R76 to R80) -/

/-- The request kind a configuration begins with (R169). -/
def configKind (s : State) (h : HeadId) : RequestKind := if dueParams s h = [] then .query else .config

/-- The controller of a head whose configuration begins (R169). -/
def configuredLink (k : RequestKind) (now : Nat) (d : HeadLink) : HeadLink :=
  { d with config := some false, queue := enqueue { kind := k, joined := now } d.queue }

theorem beginConfiguration_eq (h : HeadId) (s : State) :
    beginConfiguration h s = s.setHead h (configuredLink (configKind s h) s.tick (s.head h)) := by
  have hkind : (if (dueParams s h).isEmpty then RequestKind.query else .config) = configKind s h := by
    simp [configKind, List.isEmpty_iff]
  unfold beginConfiguration
  dsimp only
  rw [hkind]
  simp [addRequest, configuredLink, State.setHead, State.withHeads, State.head]

/-- A head that is CONFIGURING begins its configuration. -/
def configureIf (s : State) (h : HeadId) : State :=
  if (s.head h).service = .configuring then beginConfiguration h s else s

theorem configureIf_onlyChanges (s : State) (h : HeadId) : OnlyChanges [.heads] s (configureIf s h) := by
  unfold configureIf
  rw [beginConfiguration_eq]
  exact .ite (fun _ => setHead_onlyChanges _ _ _) fun _ => .refl _ s

theorem configureIf_head_ne (s : State) (h g : HeadId) (hg : g ≠ h) : (configureIf s h).head g = s.head g := by
  unfold configureIf
  rw [beginConfiguration_eq]
  split
  · exact State.setHead_head_ne _ _ _ _ hg
  · rfl

/-- The state in which the configurations begin: the new layout, maps, channels and services. -/
def laidOut (l : Layout) (s : State) : State :=
  (((s.withLayout (some l)).withMaps (tabulate 16 fun h => trimmedMap l h (s.map h))).withChans
    (tabulate 32 fun c => appliedChannel (chanEntry (some l) c) (s.chan c))).withHeads
      (tabulate 16 fun h => appliedLink l.heads[h] (s.head h))

theorem applyLayout_eq (l : Layout) (s : State) : applyLayout l s = allHeads.foldl configureIf (laidOut l s) := rfl

theorem applyLayout_onlyChanges (l : Layout) (s : State) : OnlyChanges [.heads] (laidOut l s) (applyLayout l s) := by
  rw [applyLayout_eq]
  exact .foldl _ configureIf_onlyChanges _ _

theorem dueParams_congr {s t : State} {h : HeadId} (hl : t.layout = s.layout)
    (hs : (t.head h).shadow = (s.head h).shadow) : dueParams t h = dueParams s h := by
  unfold dueParams
  rw [hl]
  split
  · rfl
  · refine List.filter_congr fun i _ => ?_
    dsimp only
    rw [hs]

/-- A head after the application: its new controller, with a configuration begun where it is CONFIGURING. -/
theorem applyLayout_head (l : Layout) (s : State) (h : HeadId) :
    (applyLayout l s).head h =
      if newService l.heads[h] = .configuring
      then configuredLink (configKind (laidOut l s) h) s.tick (appliedLink l.heads[h] (s.head h))
      else appliedLink l.heads[h] (s.head h) := by
  rw [applyLayout_eq]
  obtain ⟨u, hu, hsame, hend⟩ := foldl_allHeads_head configureIf_onlyChanges configureIf_head_ne (laidOut l s) h
  have hhead : u.head h = appliedLink l.heads[h] (s.head h) := by
    rw [hsame, laidOut, State.withHeads_head, getElem_tabulate]
  have hkind : configKind u h = configKind (laidOut l s) h := by
    rw [configKind, dueParams_congr (hu .layout (by decide)) (by rw [hsame]), ← configKind]
  have htick : u.tick = s.tick := hu .tick (by decide)
  rw [hend, configureIf, hhead]
  split
  next hs =>
    rw [beginConfiguration_eq, State.setHead_head_self, hhead, hkind, htick,
      if_pos (show newService l.heads[h] = .configuring from hs)]
  next hs =>
    rw [hhead, if_neg (show newService l.heads[h] ≠ .configuring from hs)]

theorem appliedLink_law (e : Option HeadEntry) (d : HeadLink) (h : newService e ≠ .configuring) :
    (appliedLink e d).ServiceLaw := by
  have hs : newService e = .absent ∨ newService e = .outOfService := by
    unfold newService at h ⊢
    cases e with
    | none => exact .inl rfl
    | some e => cases he : e.inService <;> simp_all
  refine { timer := ?_, config := ?_, ready := nofun, band := nofun } <;>
    rcases hs with e' | e' <;> simp [appliedLink, e']

theorem configuredLink_law (k : RequestKind) (now : Nat) (e : Option HeadEntry) (d : HeadLink)
    (h : newService e = .configuring) : (configuredLink k now (appliedLink e d)).ServiceLaw := by
  refine { timer := ?_, config := ?_, ready := nofun, band := nofun } <;> simp [configuredLink, appliedLink, h]

theorem applyLayout_services (l : Layout) (s : State) : ServiceLaw (applyLayout l s) := by
  intro h
  rw [applyLayout_head]
  split
  next hc => exact configuredLink_law _ _ _ _ hc
  next hc => exact appliedLink_law _ _ hc

/-! ## Judging: what an accepted block says of NOZZLES (R70) -/

theorem judge_eq_none_iff (b : LayoutBlock) : judge b = none ↔ ∀ n ∈ [1, 2, 3, 4, 5, 6, 7], checkFails b n = false := by
  simp [judge]

theorem mem_presentHeads {b : LayoutBlock} {h : Nat} {r : RawHead} :
    (h, r) ∈ presentHeads b ↔ b.heads[h]? = some (some r) := by
  simp [presentHeads, List.mem_zipIdx_iff_getElem?]

theorem nozzles_le_of_judge {b : LayoutBlock} (hb : judge b = none) {h : Nat} {r : RawHead}
    (hr : b.heads[h]? = some (some r)) : r.nozzles ≤ 4096 := by
  have hcheck := (judge_eq_none_iff b).1 hb 3 (by decide)
  simp only [checkFails, List.any_eq_false] at hcheck
  have := hcheck (h, r) (mem_presentHeads.2 hr)
  simp only [decide_eq_true_eq] at this
  omega

theorem layoutOf_heads (b : LayoutBlock) (h : HeadId) :
    (layoutOf b).heads[h] = (b.heads.getD h.val none).map clampHead := by
  show (tabulate 16 fun h : HeadId => (b.heads.getD h.val none).map clampHead)[h] = _
  rw [getElem_tabulate]

theorem getElem?_of_getD_eq_some {α : Type} {l : List (Option α)} {i : Nat} {a : α} (h : l.getD i none = some a) :
    l[i]? = some (some a) := by
  rw [List.getD_eq_getElem?_getD] at h
  cases hl : l[i]? with
  | none => simp [hl] at h
  | some x => simpa [hl] using h

theorem layoutOf_nozzles {b : LayoutBlock} (hb : judge b = none) (h : HeadId) (e : HeadEntry)
    (he : (layoutOf b).heads[h] = some e) : e.nozzles ≤ 4096 := by
  rw [layoutOf_heads] at he
  obtain ⟨r, hr, rfl⟩ := Option.map_eq_some_iff.1 he
  exact nozzles_le_of_judge hb (getElem?_of_getD_eq_some hr)

/-- ACTIVE trimmed to NOZZLES, which is 4,096 at most, keeps the law of R85 under the new layout (R78). -/
theorem trimmedMap_active {l : Layout} {s : State} (hs : NozzleSetLaw s) (h : HeadId) :
    NozzleSet (nozzleLimit (some l) h) (trimmedMap l h (s.map h)).active := by
  have hactive := hs.active h
  have hlimit : nozzleLimit s.layout h ≤ 4096 := by
    unfold nozzleLimit
    split
    next e he => exact hs.nozzles h e he
    next => exact Nat.le_refl _
  have hentry : entryOf (some l) h = l.heads[h] := rfl
  unfold trimmedMap nozzleLimit
  rw [hentry]
  cases l.heads[h] with
  | none => exact ⟨hactive.1, hactive.2.1, fun i hi => (hactive.2.2 i hi).trans_le hlimit⟩
  | some e =>
    have hsub := hactive.sublist (List.filter_sublist (p := fun i => decide (i < e.nozzles)) (l := (s.map h).active))
    exact ⟨hsub.1, hsub.2.1, fun i hi => of_decide_eq_true (List.mem_filter.1 hi).2⟩

theorem trimmedMap_staged (l : Layout) (h : HeadId) (m : NozzleMap) : (trimmedMap l h m).staged = m.staged := by
  unfold trimmedMap
  split <;> rfl

theorem appliedChannel_law (e : Option HeadEntry) (ch : Channel) : (appliedChannel e ch).QueueLaw :=
  ⟨Nat.zero_le _, nofun⟩

theorem applyLayout_map (l : Layout) (s : State) (h : HeadId) :
    (applyLayout l s).map h = trimmedMap l h (s.map h) := by
  have hmaps : (applyLayout l s).maps = (laidOut l s).maps := applyLayout_onlyChanges l s .maps (by decide)
  rw [State.map, hmaps]
  exact getElem_tabulate 16 _ h

theorem applyLayout_chan (l : Layout) (s : State) (c : ChanId) :
    (applyLayout l s).chan c = appliedChannel (chanEntry (some l) c) (s.chan c) := by
  have hchans : (applyLayout l s).chans = (laidOut l s).chans := applyLayout_onlyChanges l s .chans (by decide)
  rw [State.chan, hchans]
  exact getElem_tabulate 32 _ c

/-- An accepted block keeps the laws, its window being empty and every STAGED set promoted (R30, R67). -/
theorem applyLayout_keeps (l : LayoutRecord) (next : Addr) (lay : Layout) (flags : BitVec 8) (s t : State) (x : Nat)
    (hw : s.reader.work = .blockRead x l next) 
    (hnozzles : ∀ (h : HeadId) (e : HeadEntry), lay.heads[h] = some e → e.nozzles ≤ 4096)
    (ht : t = setWork (.configuring l flags next) (setCond .configuringLayout (applyLayout lay s))) :
    Keeps s t ∧ (SuspensionLaw s → SuspensionLaw t) ∧ HaltHolds s t ∧ t.posn.pos = s.posn.pos ∧
      t.ctl.enables = s.ctl.enables ∧ t.reader.listHead = s.reader.listHead := by
  have hidle : s.reader.work ≠ .idle := by rw [hw]; nofun
  have h := applyLayout_onlyChanges lay s
  have hmaps := applyLayout_map lay s
  have hchans := applyLayout_chan lay s
  have hheads := applyLayout_services lay s
  generalize applyLayout lay s = u at h hmaps hchans hheads ht
  subst ht
  obtain ⟨hpend, hposn, hwin, hctl, hlayout, hreader⟩ : u.pending = s.pending ∧ u.posn = s.posn ∧ u.win = s.win ∧
      u.ctl = s.ctl ∧ u.layout = some lay ∧ u.reader = s.reader :=
    ⟨h .pending (by decide), h .posn (by decide), h .win (by decide), h .ctl (by decide), h .layout (by decide),
      h .reader (by decide)⟩
  have hbands : ∀ k : BandCountLaw s, s.win.bands = [] := fun k => k.2 _ _ _ hw
  refine ⟨{ pending := hpend, productQueue := fun k => ?_, window := fun k => ?_, numbering := fun k => ?_,
            pageOrder := fun k => ?_, interrupt := fun k => ?_, lineQueues := fun _ c => ?_, bandCounts := fun k => ?_,
            nozzleSets := fun k => ?_, addresses := fun k => ?_, services := fun _ => ?_ }, ?_, .of_ctl hctl,
    congrArg PositionUnit.pos hposn, congrArg EngineControl.enables hctl,
    (congrArg Reader.listHead hreader : u.reader.listHead = _)⟩
  · unfold ProductQueueLaw; simp only [setWork, setCond, State.withReader_posn, State.withReader_win]
    rw [hposn, hwin]; exact k
  · unfold WindowLaw; simp only [setWork, setCond, State.withReader_ctl, State.withReader_win]
    rw [hwin, hctl]; exact k
  · exact ⟨(hwin ▸ k.bands : u.win.bands.Pairwise _), (hwin ▸ k.nextBand : ∀ b ∈ u.win.bands, _),
      (hwin ▸ k.pages : u.win.pages.Pairwise _), (hwin ▸ k.nextPage : ∀ p ∈ u.win.pages, _)⟩
  · exact ⟨(hwin ▸ k.openPage : ∀ id, u.win.openPage = _ → _), (hwin ▸ k.prevPage : ∀ id, u.win.prevPage = _ → _),
      (hwin ▸ k.pred : ∀ p ∈ u.win.pages, _), (hwin ▸ k.firstBand : ∀ p ∈ u.win.pages, _)⟩
  · unfold InterruptLaw; simp only [setWork, setCond, State.withReader_ctl]
    rw [hctl]; exact k
  · exact (hchans c ▸ appliedChannel_law _ _ : (u.chan c).QueueLaw)
  · have hnil : u.win.bands = [] := by rw [hwin, hbands k]
    exact ⟨(hnil ▸ nofun : ∀ b ∈ u.win.bands, _), fun _ _ _ _ => hnil⟩
  · have hstaged := k.drained _ _ _ hw
    refine ⟨fun g => ?_, fun g st e => ?_, fun g e he => ?_, nofun⟩
    · show NozzleSet (nozzleLimit u.layout g) (u.map g).active
      rw [hmaps, hlayout]; exact trimmedMap_active k g
    · replace e : (u.map g).staged = some st := e
      rw [hmaps, trimmedMap_staged, hstaged g] at e; cases e
    · replace he : entryOf u.layout g = some e := he
      rw [hlayout] at he; exact hnozzles g e he
  · refine ⟨?_, ?_, fun n e => by cases e; exact k.2.2 _ (by rw [hw]; rfl)⟩
    · show aligned u.reader.listHead
      rw [hreader]; exact k.1
    · show aligned u.reader.addr
      rw [hreader]; exact k.2.1
  · exact hheads
  · exact suspensionLaw_of_work hidle fun e => .inl (hctl ▸ e)

/-- A block is applied or rejected; everything but the layout is as any command leaves it. -/
theorem execLayoutBlockReadComplete_spec (s : State) :
    ∃ t, execLayoutBlockReadComplete s = .next t ∧ Keeps s t ∧ (SuspensionLaw s → SuspensionLaw t) ∧
      HaltHolds s t ∧ t.posn.pos = s.posn.pos ∧ t.ctl.enables = s.ctl.enables ∧
      t.reader.listHead = s.reader.listHead := by
  have hsteps : ∀ t, Steps s t → Keeps s t ∧ (SuspensionLaw s → SuspensionLaw t) ∧
      HaltHolds s t ∧ t.posn.pos = s.posn.pos ∧ t.ctl.enables = s.ctl.enables ∧
      t.reader.listHead = s.reader.listHead :=
    fun t h => ⟨h.toKeeps, h.suspension, h.halted, h.pos, h.enables, h.listHead⟩
  unfold execLayoutBlockReadComplete
  split
  next x l next hw =>
    split
    next bs _ =>
      split
      · have hd := discard_steps x s
        have hdw : (discard x s).reader.work = .blockRead x l next := by rw [discard_reader, hw]
        refine ⟨_, rfl, ?_⟩
        generalize discard x s = s1 at hd hdw
        have hidle : s1.reader.work ≠ .idle := by rw [hdw]; nofun
        unfold judgeBlock
        dsimp only
        split
        · exact hsteps _ (.after (halt_steps _ _) (.after (handOver_steps _ _)
            (.after (setWork_steps .idle s1 hidle nofun fun _ => nofun) hd)))
        next hb =>
          obtain ⟨hk, hs, hh, hpos, hen, hlist⟩ := applyLayout_keeps l next _ _ s1 _ x hdw (layoutOf_nozzles hb) rfl
          exact ⟨hd.toKeeps.trans hk, fun k => hs (hd.suspension k), hd.halted.trans hh, hpos.trans hd.pos,
            hen.trans hd.enables, hlist.trans hd.listHead⟩
      · exact ⟨_, rfl, hsteps _ (.refl s)⟩
    · exact ⟨_, rfl, hsteps _ (.refl s)⟩
  all_goals exact ⟨_, rfl, hsteps _ (.refl s)⟩

end Sys2Proof.Machine

/-! PROOFS. The commands of the host, and what every command and every step keeps (chapters 2 and 9). -/

namespace Sys2Proof.Machine

/-! ## START, STOP and the poke (R24, R33, R180, R181) -/

theorem takeStart_steps (s : State) : Steps s (takeStart s) := by
  unfold takeStart
  refine .ite (fun hs => ?_) fun _ => raise_steps _ s
  have hstopped : s.ctl.engine = .stopped := of_decide_eq_true (Bool.and_eq_true_iff.1 hs).1
  refine .after (startTransfer_steps ..) ?_
  have hwin : Steps s ((s.withPosn { s.posn with productQueue := [] }).withWin (clearedPages s.win)) :=
    .after (clearedPages_steps _) (.withPosn s _ (fun _ => ⟨Nat.zero_le _, .inl rfl⟩) rfl)
  generalize hs1 : (s.withPosn { s.posn with productQueue := [] }).withWin (clearedPages s.win) = s1 at hwin
  have hctl : s1.ctl = s.ctl := by rw [← hs1]; rfl
  have hread : s1.reader = s.reader := by rw [← hs1]; rfl
  refine hwin.trans ?_
  have hreads : Reads s1 ((s1.withCtl { s1.ctl with engine := .running, cause := .none }).withReader
      { s1.reader with addr := recordAddr s.reader.listHead, pokePending := false, cond := .reading
                       work := .headerRead s1.port.nextXfer }) :=
    { Reads.refl s1 with kept := ⟨rfl, rfl, rfl⟩, irq := id, listHead := rfl }
  have hall : Steps s1 ((s1.withCtl { s1.ctl with engine := .running, cause := .none }).withReader
      { s1.reader with addr := recordAddr s.reader.listHead, pokePending := false, cond := .reading
                       work := .headerRead s1.port.nextXfer }) :=
    { (Keeps.refl s1).then_reads hreads nofun nofun (fun k => ⟨k.1, aligned_recordAddr _, nofun⟩),
      Frames.of_reads hreads with
      suspension := fun _ => nofun
      halted := fun e => by rw [hctl, hstopped] at e; cases e }
  subst hs1
  exact hall

/-- What a command keeps that may take the engine out of HALTED or of a suspension. -/
structure Sound (s t : State) : Prop extends Keeps s t, Frames s t

theorem Sound.after {s t u : State} (k : Sound t u) (h : Sound s t) : Sound s u :=
  { h.toKeeps.trans k.toKeeps, h.toFrames.trans k.toFrames with }

theorem Steps.sound {s t : State} (h : Steps s t) : Sound s t := { h with }

theorem Sound.of_runs {s t : State} (h : Runs s t) : Sound s t := { Keeps.of_runs h, Frames.of_runs h with }

/-- The engine enters a state that is not STOPPED. -/
theorem setEngine_sound (e : EngineState) (s : State) (he : e ≠ .stopped) : Sound s (setEngine e s) := by
  have hreads : Reads s (setEngine e s) := { Reads.refl s with kept := ⟨rfl, rfl, rfl⟩, irq := id }
  exact { (Keeps.refl s).then_reads hreads (fun _ _ _ k => .inl k) (fun k => absurd k he) id,
          Frames.of_reads hreads with }

/-- From a state that is not HALTED the engine enters one that is neither STOPPED nor SUSPENDED. -/
theorem setEngine_steps (e : EngineState) (s : State) (he : e ≠ .stopped) (hs : e ≠ .suspended)
    (hhalt : s.ctl.engine ≠ .halted) : Steps s (setEngine e s) :=
  { setEngine_sound e s he with
    suspension := fun _ k => absurd k hs
    halted := fun k => absurd k hhalt }

theorem discardReads_steps (s : State) : Steps s (discardReads s) :=
  .of_runs_ctl (discardReads_runs s) (discardReads_spec s).2.1

theorem stopReader_steps (s : State) : Steps s (stopReader s) := by
  unfold stopReader
  cases hw : s.reader.work with
  | headerRead x => exact discardReads_steps s
  | bodyFixed x ty n => exact discardReads_steps s
  | bodyList x ty n f => exact discardReads_steps s
  | nextRead x => exact discardReads_steps s
  | held b n a =>
    exact setWork_steps _ s (by rw [hw]; nofun) nofun fun h k e => by cases e; exact h.2.2 _ (by rw [hw]; rfl)
  | idle => exact .refl s
  | editing e n => exact .refl s
  | blockRead x l n => exact .refl s
  | configuring l f n => exact .refl s

theorem stopReader_ctl (s : State) : (stopReader s).ctl = s.ctl := by
  unfold stopReader
  split
  all_goals first | exact (discardReads_spec s).2.1 | rfl

theorem withReader_sound (s : State) (r : Reader) (hlist : r.listHead = s.reader.listHead)
    (haddr : r.addr = s.reader.addr) (hwork : r.work = s.reader.work) : Sound s (s.withReader r) :=
  { (Keeps.refl s).then_reads (.withReader s r hlist) (fun _ _ _ k => .inl (hwork ▸ k)) .inl
      (fun h => ⟨by rw [State.withReader_reader, hlist]; exact h.1, by rw [State.withReader_reader, haddr]; exact h.2.1,
        by rw [State.withReader_reader, hwork]; exact h.2.2⟩),
    Frames.of_reads (.withReader s r hlist) with }

theorem takeStop_steps (s : State) : Steps s (takeStop s) := by
  unfold takeStop
  refine .ite (fun hr => .after (drainEnds_steps _) ?_) fun _ => raise_steps _ s
  have hhalt : (stopReader s).ctl.engine ≠ .halted := by rw [stopReader_ctl]; exact ne_halted_of_reading hr
  have hengine : Steps s (setEngine .draining (stopReader s)) :=
    .after (setEngine_steps _ _ nofun nofun hhalt) (stopReader_steps s)
  have hpoke : Sound s ((setEngine .draining (stopReader s)).withReader
      { (setEngine .draining (stopReader s)).reader with pokePending := false }) :=
    (withReader_sound (setEngine .draining (stopReader s))
      { (setEngine .draining (stopReader s)).reader with pokePending := false } rfl rfl rfl).after hengine.sound
  exact
    { hpoke with
      suspension := fun _ => nofun
      halted := fun e => absurd e (ne_halted_of_reading hr) }

theorem takePoke_steps (s : State) : Steps s (takePoke s) := by
  unfold takePoke
  split
  next he =>
    have hrun : ∀ r : Reader, r.listHead = s.reader.listHead → r.addr = s.reader.addr → r.work.next = none →
        ∀ p, Steps s (((setEngine .running s).withReader r).withPort p) := by
      intro r hlist haddr hnext p
      have hreads : Reads s ((setEngine .running s).withReader r) :=
        { Reads.refl s with kept := ⟨rfl, rfl, rfl⟩, irq := id, listHead := hlist }
      refine .after (.withPort _ _) ?_
      exact
        { (Keeps.refl s).then_reads hreads (fun x l n e => absurd e (ne_blockRead_of_next hnext x l n)) nofun
            (fun h => ⟨by rw [State.withReader_reader, hlist]; exact h.1,
              by rw [State.withReader_reader, haddr]; exact h.2.1, by rw [State.withReader_reader, hnext]; nofun⟩),
          Frames.of_reads hreads with
          suspension := fun _ => nofun
          halted := fun k => by rw [he] at k; cases k }
    dsimp only
    split
    · unfold readHeader
      obtain ⟨_, _, _, e⟩ := startTransfer_spec none (setEngine .running s).reader.addr Config.headerBytes
        ((setEngine .running s).withReader
          { (setEngine .running s).reader with cond := .reading, work := .headerRead (setEngine .running s).port.nextXfer })
      rw [e]
      exact hrun { s.reader with cond := .reading, work := .headerRead s.port.nextXfer } rfl rfl rfl _
    · unfold readNext
      obtain ⟨_, _, _, e⟩ := startTransfer_spec none (addrPlus (setEngine .running s).reader.addr 8) 8
        ((setEngine .running s).withReader
          { (setEngine .running s).reader with cond := .reading, work := .nextRead (setEngine .running s).port.nextXfer })
      rw [e]
      exact hrun { s.reader with cond := .reading, work := .nextRead s.port.nextXfer } rfl rfl rfl _
    all_goals exact setEngine_steps _ s nofun nofun (by rw [he]; nofun)
  next he =>
    exact { withReader_sound s { s.reader with pokePending := true } rfl rfl rfl with
            suspension := id
            halted := .of_ctl rfl }
  all_goals exact raise_steps _ s

/-! ## ABORT (R35, R185, R187) -/

theorem completeEdit_sound (s : State) : Sound s (completeEdit s) := by
  unfold completeEdit
  split
  next e n hw =>
    split
    · exact (Steps.refl s).sound
    · obtain ⟨hk, hf, -⟩ := applyRecord_keeps e s (by rw [hw]; nofun)
      have happ : Sound s (applyRecord e s).1 := { hk, hf with }
      have hreads : ∀ u : State, Reads u (setWork .idle u) := fun u => .withReader u _ rfl
      have hidle : ∀ u : State, Sound u (setWork .idle u) := fun u =>
        { (Keeps.refl u).then_reads (hreads u) nofun .inl (fun h => ⟨h.1, h.2.1, nofun⟩), Frames.of_reads (hreads u) with }
      exact (hidle _).after ((handOver_steps _ _).sound.after happ)
  all_goals exact (Steps.refl s).sound

/-- Heads changed within the law of their services. -/
theorem Steps.withHeads (s : State) (f : HeadId → HeadLink) (hf : ∀ h, (s.head h).ServiceLaw → (f h).ServiceLaw) :
    Steps s (s.withHeads (tabulate 16 f)) :=
  .of_runs_ctl
    { Runs.refl s with
      service := fun k h => by
        rw [State.withHeads_head, getElem_tabulate]
        exact hf h (k h) }
    rfl

theorem abortedLink_law (now : Nat) (d : HeadLink) (h : d.ServiceLaw) : (abortedLink now d).ServiceLaw := by
  unfold abortedLink
  dsimp only
  split
  next => exact h
  next => exact h
  next => exact h.congr rfl rfl rfl rfl rfl
  next hs =>
    exact { timer := by simp [hs, brokenTimer], config := by simpa [hs] using h.config, ready := nofun,
            band := fun e => by simpa [hs] using h.band e }
  next => exact { timer := rfl, config := rfl, ready := nofun, band := nofun }
  next => exact { timer := rfl, config := rfl, ready := nofun, band := nofun }

theorem abortReader_steps (s : State) : Steps s (abortReader s) := by
  have hidle : s.reader.work ≠ .idle → Steps s (setWork .idle s) := fun h => setWork_steps .idle s h nofun fun _ => nofun
  unfold abortReader
  cases hw : s.reader.work with
  | headerRead x => exact discardReads_steps s
  | bodyFixed x ty n => exact discardReads_steps s
  | bodyList x ty n f => exact discardReads_steps s
  | nextRead x => exact discardReads_steps s
  | blockRead x l n => exact .after (handOver_steps _ _) (discardReads_steps s)
  | configuring l flags n => exact .after (handOver_steps _ _) (hidle (by rw [hw]; nofun))
  | held b n a =>
    cases b with
    | layout l => cases a with
      | false => exact .after (handOver_steps _ _) (hidle (by rw [hw]; nofun))
      | true => exact .refl s
    | band b => exact .refl s
    | edit e => exact .refl s
  | idle => exact .refl s
  | editing e n => exact .refl s

theorem abortedPages_steps (s : State) : Steps s (s.withWin (abortedPages s.win)) :=
  .of_withWin (.withWin s _ (fun h => ⟨h.1, .inr rfl⟩) id
    (fun h => ⟨h.bands, h.nextBand, h.pages.sublist List.filter_sublist,
      fun p hp => h.nextPage p (List.mem_of_mem_filter hp)⟩)
    (fun h => ⟨nofun, nofun, fun p hp => h.pred p (List.mem_of_mem_filter hp),
      fun p hp => h.firstBand p (List.mem_of_mem_filter hp)⟩) id)

/-- What ABORT does to channels, fetches and heads before the parks. -/
def brokenOff (s : State) : State :=
  ((((setEngine .aborting s).withChans (tabulate 32 fun c => abortedChannel (s.chan c))).withPort
    (discardFetches s.port)).withHeads (tabulate 16 fun h => abortedLink s.tick (s.head h)))

/-- The rest of ABORT, the reader having been treated. -/
def clearedQueues (s : State) : State :=
  let s1 := (s.withReader { s.reader with pokePending := false }).withPosn { s.posn with productQueue := [] }
  s1.withWin (abortedPages s1.win)

theorem abortedState_eq (s : State) :
    abortedState s = clearedQueues (abortReader (abortParks (parkingHeads s) (brokenOff s))) := rfl

theorem brokenOff_sound (s : State) : Sound s (brokenOff s) := by
  have h1 := setEngine_sound .aborting s nofun
  have h2 : Sound s ((setEngine .aborting s).withChans (tabulate 32 fun c => abortedChannel (s.chan c))) :=
    (Steps.withChans (setEngine .aborting s) (fun c => abortedChannel (s.chan c))
      fun c _ => ⟨Nat.zero_le _, nofun⟩).sound.after h1
  have h3 := (Steps.withPort _ (discardFetches s.port)).sound.after h2
  generalize hu : ((setEngine .aborting s).withChans (tabulate 32 fun c => abortedChannel (s.chan c))).withPort
    (discardFetches s.port) = u at h3
  have hhead : ∀ h, u.head h = s.head h := fun h => by rw [← hu]; rfl
  have h4 : Steps u (u.withHeads (tabulate 16 fun h => abortedLink s.tick (s.head h))) :=
    .withHeads u _ fun h k => abortedLink_law _ _ (hhead h ▸ k)
  subst hu
  exact h4.sound.after h3

theorem clearedQueues_sound (s : State) : Sound s (clearedQueues s) := by
  have h1 : Sound s (s.withReader { s.reader with pokePending := false }) := withReader_sound s _ rfl rfl rfl
  have h2 := (Steps.withPosn (s.withReader { s.reader with pokePending := false })
    { s.posn with productQueue := [] } (fun _ => ⟨Nat.zero_le _, .inl rfl⟩) rfl).sound.after h1
  exact (abortedPages_steps _).sound.after h2

theorem abortedState_sound (s : State) : Sound s (abortedState s) := by
  rw [abortedState_eq]
  exact (clearedQueues_sound _).after ((abortReader_steps _).sound.after
    ((Sound.of_runs (abortParks_runs _ _)).after (brokenOff_sound s)))

theorem frozen_brokenOff (s : State) : frozen (brokenOff s) = true := rfl

theorem abortParks_engine {s : State} (h : frozen s = true) (hs : List HeadId) :
    (abortParks hs s).ctl.engine = s.ctl.engine ∧ (abortParks hs s).ctl.cause = s.ctl.cause := by
  unfold abortParks
  split
  · exact ⟨rfl, rfl⟩
  · rw [raise_ctl]
    dsimp only
    rw [foldl_flush_ctl_of_frozen _ h]
    exact ⟨rfl, rfl⟩

theorem handOver_cause (u : WriteUnit) (s : State) : (handOver u s).ctl.cause = s.ctl.cause := by
  rw [handOver_spec]
  split
  · split
    · rw [raise_ctl]; rfl
    · rfl
  · rfl

theorem abortReader_engine (s : State) :
    (abortReader s).ctl.engine = s.ctl.engine ∧ (abortReader s).ctl.cause = s.ctl.cause := by
  have hd := (discardReads_spec s).2.1
  have hclose : ∀ l code f m (t : State), (closeLayout l code f m t).ctl.engine = t.ctl.engine ∧
      (closeLayout l code f m t).ctl.cause = t.ctl.cause := fun l code f m t =>
    ⟨handOver_engine _ _, handOver_cause _ _⟩
  have hdisc : (discardReads s).ctl.engine = s.ctl.engine ∧ (discardReads s).ctl.cause = s.ctl.cause := by
    rw [hd]; exact ⟨rfl, rfl⟩
  unfold abortReader
  cases hw : s.reader.work with
  | headerRead x => exact hdisc
  | bodyFixed x ty n => exact hdisc
  | bodyList x ty n f => exact hdisc
  | nextRead x => exact hdisc
  | blockRead x l n =>
    obtain ⟨he, hc⟩ := hclose l .aborted 0 0 (discardReads s)
    exact ⟨he.trans hdisc.1, hc.trans hdisc.2⟩
  | configuring l flags n => exact hclose ..
  | held b n a =>
    cases b with
    | layout l => cases a with
      | false => exact hclose ..
      | true => exact ⟨rfl, rfl⟩
    | band b => exact ⟨rfl, rfl⟩
    | edit e => exact ⟨rfl, rfl⟩
  | idle => exact ⟨rfl, rfl⟩
  | editing e n => exact ⟨rfl, rfl⟩

/-- ABORT leaves the engine ABORTING, with the halt cause as it stood. -/
theorem abortedState_engine (s : State) :
    (abortedState s).ctl.engine = .aborting ∧ (abortedState s).ctl.cause = s.ctl.cause := by
  rw [abortedState_eq]
  obtain ⟨he, hc⟩ := abortReader_engine (abortParks (parkingHeads s) (brokenOff s))
  obtain ⟨pe, pc⟩ := abortParks_engine (frozen_brokenOff s) (parkingHeads s)
  exact ⟨he.trans pe, hc.trans pc⟩

theorem takeAbort_sound (s : State) : Sound s (takeAbort s) ∧ (SuspensionLaw s → SuspensionLaw (takeAbort s)) := by
  have habort : Sound s (abortEnds (abortedState (completeEdit s))) ∧
      (SuspensionLaw s → SuspensionLaw (abortEnds (abortedState (completeEdit s)))) := by
    have hends := abortEnds_steps (abortedState (completeEdit s))
    refine ⟨hends.sound.after ((abortedState_sound _).after (completeEdit_sound s)), fun _ => hends.suspension ?_⟩
    intro e
    rw [(abortedState_engine _).1] at e
    cases e
  unfold takeAbort
  split
  all_goals first | exact habort | exact ⟨(raise_steps _ s).sound, (raise_steps _ s).suspension⟩

/-! ## ENGINE_RESET (R188) -/

theorem resetMap_eq (s : State) (h : HeadId) :
    let promoted := match (s.map h).staged with
      | some st => st.set
      | none => (s.map h).active
    (resetMap s h).staged = none ∧ (resetMap s h).hold = none ∧
      (∀ e n, s.reader.work = .editing e n → e.head = h →
        (resetMap s h).active = (applyEdit e.op (nozzleLimit s.layout h) e.indices promoted).set) ∧
      ((∀ e n, s.reader.work = .editing e n → e.head ≠ h) → (resetMap s h).active = promoted) := by
  intro promoted
  unfold resetMap
  dsimp only
  cases hw : s.reader.work with
  | editing e n =>
    dsimp only
    split
    next hh => exact ⟨rfl, rfl, fun e' n' k _ => by cases k; rfl, fun k => absurd hh (k e n rfl)⟩
    next hh => exact ⟨rfl, rfl, fun e' n' k k' => by cases k; exact absurd k' hh, fun _ => rfl⟩
  | _ => exact ⟨rfl, rfl, nofun, fun _ => rfl⟩

theorem resetLink_law (now : Nat) (d : HeadLink) : (resetLink now d).ServiceLaw := by
  unfold resetLink
  cases hs : d.service <;>
    exact { timer := rfl, config := rfl, ready := nofun, band := nofun }

theorem aligned_zero : aligned 0 := BitVec.zero_and

/-- ENGINE_RESET leaves no work, and the sets of R101. -/
theorem takeEngineReset_sound (s : State) :
    Sound s (takeEngineReset s) ∧ (SuspensionLaw s → SuspensionLaw (takeEngineReset s)) := by
  have hmap : ∀ g, (takeEngineReset s).map g = resetMap s g := fun g => getElem_tabulate 16 _ g
  refine ⟨{ pending := rfl, productQueue := fun _ => ⟨Nat.zero_le _, .inl rfl⟩,
            window := fun _ => ⟨Nat.zero_le _, fun _ => rfl⟩, numbering := fun _ => ⟨.nil, nofun, .nil, nofun⟩,
            pageOrder := fun _ => ⟨nofun, nofun, nofun, nofun⟩, interrupt := fun _ => ?_,
            lineQueues := fun _ c => ?_, bandCounts := fun _ => ⟨nofun, nofun⟩, nozzleSets := fun k => ?_,
            addresses := fun k => ⟨k.1, aligned_zero, nofun⟩, services := fun _ h => ?_, pos := rfl, layout := rfl,
            enables := rfl, listHead := rfl }, fun _ => nofun⟩
  · show false = irqOf 0 s.ctl.enables
    simp [irqOf]
  · show Channel.QueueLaw (tabulate 32 fun c => resetChannel (s.chan c))[c]
    rw [getElem_tabulate]
    exact ⟨Nat.zero_le _, nofun⟩
  · refine ⟨fun g => ?_, fun g st e => ?_, k.nozzles, nofun⟩
    · obtain ⟨-, -, hedit, hplain⟩ := resetMap_eq s g
      have hpromoted : NozzleSet (nozzleLimit s.layout g) (match (s.map g).staged with
          | some st => st.set
          | none => (s.map g).active) := by
        split
        next st hst => exact k.staged g st hst
        next => exact k.active g
      rw [hmap]
      by_cases h : ∀ e n, s.reader.work = .editing e n → e.head ≠ g
      · rw [hplain h]; exact hpromoted
      · push Not at h
        obtain ⟨e, n, hw, hg⟩ := h
        rw [hedit e n hw hg]
        exact applyEdit_nozzleSet hpromoted _ _
    · rw [hmap, (resetMap_eq s g).1] at e
      cases e
  · show HeadLink.ServiceLaw (tabulate 16 fun h => resetLink s.tick (s.head h))[h]
    rw [getElem_tabulate]
    exact resetLink_law _ _

/-! ## Chip reset (R174) -/

theorem reset_lineQueues (c : ChanId) : State.reset.chan c = Channel.reset := by
  simp [State.chan, State.reset]

theorem reset_head (h : HeadId) : State.reset.head h = HeadLink.reset := by
  simp [State.head, State.reset]

theorem reset_map (h : HeadId) : State.reset.map h = { active := [], staged := none, hold := none } := by
  simp [State.map, State.reset]

/-- Every law of the part holds. -/
structure AllLaws (s : State) : Prop where
  productQueue : ProductQueueLaw s
  window : WindowLaw s
  numbering : NumberingLaw s
  pageOrder : PageOrderLaw s
  interrupt : InterruptLaw s
  lineQueues : LineQueueLaw s
  bandCounts : BandCountLaw s
  nozzleSets : NozzleSetLaw s
  addresses : RecordAddressLaw s
  suspension : SuspensionLaw s
  services : ServiceLaw s

theorem chipReset_laws (x y z : Bool) (s : State) : AllLaws (chipResetState x y z s) where
  productQueue := ⟨Nat.zero_le _, .inl rfl⟩
  window := ⟨Nat.zero_le _, fun _ => rfl⟩
  numbering := ⟨.nil, nofun, .nil, nofun⟩
  pageOrder := ⟨nofun, nofun, nofun, nofun⟩
  interrupt := by simp [InterruptLaw, chipResetState, State.reset, irqOf]
  lineQueues c := by
    show (State.reset.chan c).QueueLaw
    rw [reset_lineQueues]
    exact ⟨Nat.zero_le _, nofun⟩
  bandCounts := ⟨nofun, nofun⟩
  nozzleSets := by
    have hmap : ∀ h, (chipResetState x y z s).map h = { active := [], staged := none, hold := none } := reset_map
    refine ⟨fun h => ?_, fun h st e => ?_, nofun, nofun⟩
    · rw [hmap]; exact ⟨.nil, Nat.zero_le _, nofun⟩
    · rw [hmap] at e; cases e
  addresses := ⟨aligned_zero, aligned_zero, nofun⟩
  suspension := nofun
  services h := by
    show (State.reset.head h).ServiceLaw
    rw [reset_head]
    exact { timer := rfl, config := rfl, ready := nofun, band := nofun }

theorem AllLaws.keeps {s t : State} (h : AllLaws t) (hp : t.pending = s.pending) : Keeps s t :=
  ⟨hp, fun _ => h.productQueue, fun _ => h.window, fun _ => h.numbering, fun _ => h.pageOrder, fun _ => h.interrupt,
    fun _ => h.lineQueues, fun _ => h.bandCounts, fun _ => h.nozzleSets, fun _ => h.addresses, fun _ => h.services⟩

/-! ## The register window (R193, R198) -/

/-- Engine Control changed in flags, enables and read side alone. -/
theorem Keeps.withCtl (s : State) (x : EngineControl) (he : x.engine = s.ctl.engine)
    (hirq : InterruptLaw s → x.irq = irqOf x.events x.enables) : Keeps s (s.withCtl x) :=
  { Keeps.refl s with
    productQueue := id
    window := fun h => ⟨h.1, fun e => h.2 (he.symm.trans e)⟩
    numbering := fun h => ⟨h.bands, h.nextBand, h.pages, h.nextPage⟩
    pageOrder := fun h => ⟨h.openPage, h.prevPage, h.pred, h.firstBand⟩
    interrupt := hirq
    lineQueues := id, bandCounts := id
    nozzleSets := fun h => ⟨h.active, h.staged, h.nozzles, h.drained⟩
    addresses := id, services := id }

theorem setEvents_keeps (events enables : BitVec 9) (s : State) : Keeps s (setEvents events enables s) := by
  rw [setEvents_spec]
  exact (Keeps.withCtl s _ (by rfl) fun _ => rfl).trans (Steps.withPort _ _).toKeeps

theorem setEvents_suspension (events enables : BitVec 9) (s : State) (h : SuspensionLaw s) :
    SuspensionLaw (setEvents events enables s) := by
  intro e
  rw [setEvents_engine] at e
  rw [setEvents_reader]
  exact h e

theorem writeEvents_steps (v : Word32) (s : State) : Steps s (writeEvents v s) :=
  { setEvents_keeps _ _ s with
    pos := by rw [writeEvents, setEvents_spec]; rfl
    layout := by rw [writeEvents, setEvents_spec]; rfl
    enables := by rw [writeEvents, setEvents_engine]
    listHead := by rw [writeEvents, setEvents_reader]
    suspension := setEvents_suspension _ _ s
    halted := fun e => by rw [writeEvents, setEvents_engine]; exact ⟨e, rfl⟩ }

/-- A write to EVENT_ENABLE changes the enables besides what every command may change. -/
theorem writeEnables_keeps (v : Word32) (s : State) :
    Keeps s (writeEnables v s) ∧ (SuspensionLaw s → SuspensionLaw (writeEnables v s)) ∧
      HaltHolds s (writeEnables v s) ∧ (writeEnables v s).posn.pos = s.posn.pos ∧
      (writeEnables v s).layout = s.layout ∧ (writeEnables v s).reader = s.reader := by
  refine ⟨setEvents_keeps _ _ s, setEvents_suspension _ _ s, fun e => ?_, ?_, ?_, setEvents_reader _ _ s⟩
  · rw [writeEnables, setEvents_engine]; exact ⟨e, rfl⟩
  · rw [writeEnables, setEvents_spec]; rfl
  · rw [writeEnables, setEvents_spec]; rfl

theorem aligned_iff (a : Addr) : aligned a ↔ ∀ i < 3, a.getLsbD i = false := by
  have h7 : ∀ i < 64, (7#64).getLsbD i = decide (i < 3) := by decide
  constructor
  · intro h i hi
    simpa [h7 i (by omega), hi] using congrArg (·.getLsbD i) h
  · intro h
    refine BitVec.eq_of_getLsbD_eq fun i hi => ?_
    rw [BitVec.getLsbD_and, h7 i hi]
    by_cases hi3 : i < 3 <;> simp [hi3, h]

theorem aligned_append (top low : Word32) (h : ∀ i < 3, low.getLsbD i = false) :
    aligned (top ++ low : BitVec (32 + 32)) := by
  rw [aligned_iff]
  intro i hi
  refine (BitVec.getLsbD_append (x := top) (y := low) (i := i)).trans ?_
  rw [if_pos (by omega)]
  exact h i hi

/-- Either word of LIST_HEAD as a write leaves it keeps its low three bits 0. -/
theorem aligned_listHead_write (a : Addr) (v : Word32) (h : aligned a) (high : Bool) :
    aligned (if high then v ++ a.extractLsb' 0 32
      else a.extractLsb' 32 32 ++ (v &&& 0xFFFFFFF8#32) : BitVec (32 + 32)) := by
  rw [aligned_iff] at h
  cases high with
  | false =>
    refine aligned_append _ _ fun i hi => ?_
    have hmask : (0xFFFFFFF8#32).getLsbD i = false := by interval_cases i <;> rfl
    rw [BitVec.getLsbD_and, hmask, Bool.and_false]
  | true =>
    refine aligned_append _ _ fun i hi => ?_
    simp [h i hi]

/-- A write to LIST_HEAD changes that register besides what every command may change. -/
theorem writeListHead_keeps (high : Bool) (v : Word32) (s : State) :
    Keeps s (writeListHead high v s) ∧ (SuspensionLaw s → SuspensionLaw (writeListHead high v s)) ∧
      HaltHolds s (writeListHead high v s) ∧ (writeListHead high v s).posn = s.posn ∧
      (writeListHead high v s).layout = s.layout ∧ (writeListHead high v s).ctl.enables = s.ctl.enables := by
  unfold writeListHead
  split
  next he =>
    refine ⟨?_, id, .of_ctl rfl, rfl, rfl, rfl⟩
    exact { Keeps.refl s with
      productQueue := id, window := id
      numbering := fun h => ⟨h.bands, h.nextBand, h.pages, h.nextPage⟩
      pageOrder := fun h => ⟨h.openPage, h.prevPage, h.pred, h.firstBand⟩
      interrupt := id, lineQueues := id, bandCounts := id
      nozzleSets := fun h => ⟨h.active, h.staged, h.nozzles, h.drained⟩
      addresses := fun h => ⟨aligned_listHead_write _ v h.1 high, h.2⟩, services := id }
  next =>
    have h := raise_steps .commandRejected s
    exact ⟨h.toKeeps, h.suspension, h.halted, (raise_runs _ _).posn, h.layout, h.enables⟩

/-- What a read of CURRENT_RECORD does to the read side of Engine Control. -/
theorem Steps.withRead (s : State) (c : Option Word32) (d : Word32) :
    Steps s (s.withCtl { s.ctl with readData := d, capture := c }) :=
  { Keeps.withCtl s { s.ctl with readData := d, capture := c } rfl id, Frames.refl s with
    suspension := id, halted := fun e => ⟨e, rfl⟩ }

end Sys2Proof.Machine

/-! PROOFS. What every command and every step keeps, and the statements about the machine as a whole. -/

namespace Sys2Proof.Machine

/-! ## Every command -/

/-- What a command keeps of the parts that a few commands change alone. -/
structure Spares (c : Instr) (s t : State) : Prop where
  pos : c ≠ .forwardCount → c ≠ .backwardCount → t.posn.pos = s.posn.pos
  layout : c ≠ .layoutBlockReadComplete → t.layout = s.layout
  enables : (∀ v b, c ≠ .eventEnableWrite v b) → t.ctl.enables = s.ctl.enables
  listHead : (∀ h v b, c ≠ .listHeadWrite h v b) → t.reader.listHead = s.reader.listHead
  halted : c ≠ .abort → c ≠ .engineReset → HaltHolds s t

/-- The answer of a command: a next state that keeps the laws, and, for a command that is spelled as its row says and
is no chip reset, the parts that are not its own. -/
structure Answer (c : Instr) (s t : State) : Prop extends Keeps s t where
  suspension : SuspensionLaw s → SuspensionLaw t
  spares : c.wellFormed = true → (∀ x y z, c ≠ .chipReset x y z) → Spares c s t

theorem Frames.spares {s t : State} (h : Frames s t) (c : Instr)
    (hhalt : c ≠ .abort → c ≠ .engineReset → HaltHolds s t) : Spares c s t :=
  ⟨fun _ _ => h.pos, fun _ => h.layout, fun _ => h.enables, fun _ => h.listHead, hhalt⟩

theorem Steps.answer {s t : State} (h : Steps s t) (c : Instr) : Answer c s t :=
  { h.toKeeps with suspension := h.suspension, spares := fun _ _ => h.toFrames.spares c fun _ _ => h.halted }

theorem Steps.answered {c : Instr} {s : State} (h : ∃ t, exec c s = .next t ∧ Steps s t) :
    ∃ t, exec c s = .next t ∧ Answer c s t :=
  let ⟨t, ht, hsteps⟩ := h
  ⟨t, ht, hsteps.answer c⟩

/-- ABORT and ENGINE_RESET, which may lead out of HALTED. -/
theorem Sound.answer {s t : State} (h : Sound s t ∧ (SuspensionLaw s → SuspensionLaw t)) (c : Instr)
    (hc : c = .abort ∨ c = .engineReset) : Answer c s t :=
  { h.1.toKeeps with
    suspension := h.2
    spares := fun _ _ => h.1.toFrames.spares c fun ha hr => absurd hc (by simp [ha, hr]) }

/-- What a write to ENGINE_CONTROL may change, whatever its value. -/
theorem writeEngineControl_sound (v : Word32) (s : State) :
    Sound s (writeEngineControl v s) ∧ (SuspensionLaw s → SuspensionLaw (writeEngineControl v s)) := by
  have plain : ∀ t, Steps s t → Sound s t ∧ (SuspensionLaw s → SuspensionLaw t) := fun t h => ⟨h.sound, h.suspension⟩
  unfold writeEngineControl
  split
  · exact plain _ (takeStart_steps s)
  · exact plain _ (takeStop_steps s)
  · exact takeAbort_sound s
  · exact takeEngineReset_sound s
  · exact plain _ (takePoke_steps s)
  · exact plain _ (raise_steps _ s)

/-- A write anywhere in the window keeps the laws. -/
theorem writeWindow_keeps (offset : BitVec 12) (v : Word32) (s : State) :
    Keeps s (writeWindow offset v s) ∧ (SuspensionLaw s → SuspensionLaw (writeWindow offset v s)) := by
  unfold writeWindow
  split
  · exact ⟨(writeEngineControl_sound v s).1.toKeeps, (writeEngineControl_sound v s).2⟩
  · exact ⟨(takePoke_steps s).toKeeps, (takePoke_steps s).suspension⟩
  · exact ⟨(writeListHead_keeps false v s).1, (writeListHead_keeps false v s).2.1⟩
  · exact ⟨(writeListHead_keeps true v s).1, (writeListHead_keeps true v s).2.1⟩
  · exact ⟨(writeEvents_steps v s).toKeeps, (writeEvents_steps v s).suspension⟩
  · exact ⟨(writeEnables_keeps v s).1, (writeEnables_keeps v s).2.1⟩
  · exact ⟨Keeps.refl s, id⟩

/-- A write to a word that none of the acting offsets names has no effect. -/
theorem writeWindow_of_not_acting {offset : BitVec 12} (h : actingOffsets.contains (offset &&& ~~~3#12) = false)
    (v : Word32) (s : State) : writeWindow offset v s = s := by
  have hne : ∀ n ∈ [0, 4, 8, 12, 28, 32], (offset &&& ~~~3#12).toNat ≠ n := by
    intro n hn e
    have hof : offset &&& ~~~3#12 = BitVec.ofNat 12 n := by rw [← e, BitVec.ofNat_toNat, BitVec.setWidth_eq]
    rw [hof] at h
    fin_cases hn <;> simp [actingOffsets] at h
  simp only [List.mem_cons, List.not_mem_nil, or_false, forall_eq_or_imp, forall_eq] at hne
  obtain ⟨h0, h4, h8, h12, h28, h32⟩ := hne
  unfold writeWindow
  split
  all_goals first | rfl | (exfalso; omega)

/-- The low byte of a written word is 0 where that byte was not written. -/
theorem accessed_lowByte (v : Word32) (b : BitVec 4) :
    (accessed v b).extractLsb' 0 8 = if b.getLsbD 0 then v.extractLsb' 0 8 else 0 := by
  refine BitVec.eq_of_getLsbD_eq fun i hi => ?_
  have hmask : (byteMask b).getLsbD i = b.getLsbD 0 := by
    have low : (0x000000FF#32).getLsbD i = true := by interval_cases i <;> rfl
    have rest : (0x0000FF00#32).getLsbD i = false ∧ (0x00FF0000#32).getLsbD i = false ∧
        (0xFF000000#32).getLsbD i = false := by interval_cases i <;> exact ⟨rfl, rfl, rfl⟩
    obtain ⟨h1, h2, h3⟩ := rest
    simp only [byteMask, BitVec.getLsbD_or, apply_ite (BitVec.getLsbD · i), low, h1, h2, h3]
    simp
  rw [accessed, BitVec.getLsbD_extractLsb', Nat.zero_add, BitVec.getLsbD_and, hmask]
  cases b.getLsbD 0 <;> simp [hi]

/-- A code that the well-formedness of UNKNOWN_COMMAND_CODE lets through names no command (R198). -/
theorem commandCode_of_wellFormed {v : Word32} {b : BitVec 4} (h : (Instr.unknownCommandCode v b).wellFormed = true) :
    commandCode (accessed v b) = none := by
  simp only [Instr.wellFormed, Bool.not_eq_true', Bool.and_eq_false_iff, decide_eq_false_iff_not] at h
  unfold commandCode
  rw [accessed_lowByte]
  rcases h with h | h
  · rw [h]; rfl
  · split
    all_goals first | rfl | skip
    all_goals
      next hcode =>
        exfalso
        split at hcode
        · exact h (by omega)
        · simp at hcode

/-- Every command is answered with a next state, which keeps what the laws and the command's row say. -/
theorem exec_answer (c : Instr) (s : State) : ∃ t, exec c s = .next t ∧ Answer c s t := by
  cases c with
  | forwardCount =>
    obtain ⟨pair, p, t, ht, h⟩ := execForwardCount_spec s
    have hset := (setPair_steps pair s).toKeeps.trans (setPos_keeps p (setPair pair s))
    exact ⟨t, ht,
      { hset.trans h.toKeeps with
        suspension := h.suspension
        spares := fun _ _ => ⟨fun k => absurd rfl k, fun _ => h.layout, fun _ => h.enables, fun _ => h.listHead,
          fun _ _ => h.halted⟩ }⟩
  | backwardCount =>
    obtain ⟨pair, p, ht⟩ := execBackwardCount_spec s
    exact ⟨_, ht,
      { (setPair_steps pair s).toKeeps.trans (setPos_keeps p (setPair pair s)) with
        suspension := id
        spares := fun _ _ => ⟨fun _ k => absurd rfl k, fun _ => rfl, fun _ => rfl, fun _ => rfl,
          fun _ _ => .of_ctl rfl⟩ }⟩
  | illegalTransition => exact Steps.answered (execIllegalTransition_steps s)
  | strobePulseEnd c => exact Steps.answered (execStrobePulseEnd_steps c s)
  | periodEnd c => exact Steps.answered (execPeriodEnd_steps c s)
  | productEdge => exact Steps.answered (execProductEdge_steps s)
  | start => exact ⟨_, rfl, (takeStart_steps s).answer _⟩
  | stop => exact ⟨_, rfl, (takeStop_steps s).answer _⟩
  | abort => exact ⟨_, rfl, Sound.answer (takeAbort_sound s) _ (.inl rfl)⟩
  | engineReset => exact ⟨_, rfl, Sound.answer (takeEngineReset_sound s) _ (.inr rfl)⟩
  | poke => exact ⟨_, rfl, (takePoke_steps s).answer _⟩
  | pokeRegisterWrite v b => exact ⟨_, rfl, (takePoke_steps s).answer _⟩
  | unknownCommandCode v b =>
    obtain ⟨hsound, hsusp⟩ := writeEngineControl_sound (accessed v b) s
    refine ⟨_, rfl, { hsound.toKeeps with suspension := hsusp, spares := fun hwf _ => ?_ }⟩
    rw [writeEngineControl, commandCode_of_wellFormed hwf]
    exact ((raise_steps _ s).answer _).spares hwf nofun
  | listHeadWrite high v b =>
    obtain ⟨hkeeps, hsusp, hhalt, hposn, hlayout, henables⟩ := writeListHead_keeps high (accessed v b) s
    exact ⟨_, rfl,
      { hkeeps with
        suspension := hsusp
        spares := fun _ _ => ⟨fun _ _ => congrArg _ hposn, fun _ => hlayout, fun _ => henables,
          fun k => absurd rfl (k high v b), fun _ _ => hhalt⟩ }⟩
  | eventsWrite v b => exact ⟨_, rfl, (writeEvents_steps _ s).answer _⟩
  | eventEnableWrite v b =>
    obtain ⟨hkeeps, hsusp, hhalt, hpos, hlayout, hreader⟩ := writeEnables_keeps (accessed v b) s
    exact ⟨_, rfl,
      { hkeeps with
        suspension := hsusp
        spares := fun _ _ => ⟨fun _ _ => hpos, fun _ => hlayout, fun k => absurd rfl (k v b),
          fun _ => congrArg _ hreader, fun _ _ => hhalt⟩ }⟩
  | currentRecordLowRead b => exact ⟨_, rfl, (Steps.withRead s _ _).answer _⟩
  | currentRecordHighRead b => exact ⟨_, rfl, (Steps.withRead s _ _).answer _⟩
  | registerWrite off v b =>
    obtain ⟨hkeeps, hsusp⟩ := writeWindow_keeps off (accessed v b) s
    refine ⟨_, rfl, { hkeeps with suspension := hsusp, spares := fun hwf _ => ?_ }⟩
    rw [writeWindow_of_not_acting (by simpa [Instr.wellFormed] using hwf)]
    exact ((Steps.refl s).answer _).spares hwf nofun
  | chipReset x y z =>
    exact ⟨_, rfl,
      { (chipReset_laws x y z s).keeps (s := s) rfl with
        suspension := fun _ => (chipReset_laws x y z s).suspension
        spares := fun _ k => absurd rfl (k x y z) }⟩
  | headerReadComplete => exact Steps.answered (execHeaderReadComplete_steps s)
  | bodyReadComplete => exact Steps.answered (execBodyReadComplete_steps s)
  | nextFieldReadComplete => exact Steps.answered (execNextFieldReadComplete_steps s)
  | recordReadFailed => exact Steps.answered (execRecordReadFailed_steps s)
  | bandAdmit => exact Steps.answered (execBandAdmit_steps s)
  | nozzleEditStaged => exact Steps.answered (execNozzleEditStaged_steps s)
  | nozzleEditImmediate => exact Steps.answered (execNozzleEditImmediate_steps s)
  | stagedPromotion h => exact Steps.answered (execStagedPromotion_steps h s)
  | layoutTaken => exact Steps.answered (execLayoutTaken_steps s)
  | layoutBlockReadComplete =>
    obtain ⟨t, ht, hkeeps, hsusp, hhalt, hpos, henables, hlist⟩ := execLayoutBlockReadComplete_spec s
    exact ⟨t, ht,
      { hkeeps with
        suspension := hsusp
        spares := fun _ _ => ⟨fun _ _ => hpos, fun k => absurd rfl k, fun _ => henables, fun _ => hlist,
          fun _ _ => hhalt⟩ }⟩
  | layoutRecordClose => exact Steps.answered (execLayoutRecordClose_steps s)
  | bandClose => exact Steps.answered (execBandClose_steps s)
  | writebackUnitFailed n => exact Steps.answered (execWritebackUnitFailed_steps n s)
  | drainEnd => exact ⟨_, rfl, (drainEnds_steps s).answer _⟩
  | abortEnd => exact ⟨_, rfl, (abortEnds_steps s).answer _⟩
  | readCompletion tag ok data => exact Steps.answered (execReadCompletion_steps tag ok data s)
  | readRequestTimeout tag => exact Steps.answered (execReadRequestTimeout_steps tag s)
  | tagHoldExpiry tag => exact Steps.answered (execTagHoldExpiry_steps tag s)
  | fetchGrant => exact Steps.answered (execFetchGrant_steps s)
  | fetchComplete x => exact Steps.answered (execFetchComplete_steps x s)
  | fetchFail x => exact Steps.answered (execFetchFail_steps x s)
  | frameBegin h => exact Steps.answered (execFrameBegin_steps h s)
  | frameEnd h => exact Steps.answered (execFrameEnd_steps h s)
  | ackReceived h ack => exact Steps.answered (execAckReceived_steps h ack s)
  | ackTimeout h => exact Steps.answered (execAckTimeout_steps h s)
  | linkResetEnd h => exact Steps.answered (execLinkResetEnd_steps h s)
  | queryTimerExpiry h => exact Steps.answered (execQueryTimerExpiry_steps h s)
  | pcieLinkDown => exact Steps.answered (execPcieLinkDown_steps s)
  | pcieLinkUp => exact Steps.answered (execPcieLinkUp_steps s)
  | productDetectOtherChange => exact Steps.answered (execProductDetectOtherChange_steps s)

theorem Answer.of_exec {c : Instr} {s t : State} (h : exec c s = .next t) : Answer c s t := by
  obtain ⟨u, hu, ha⟩ := exec_answer c s
  cases hu.symm.trans h
  exact ha

/-! ## Every step -/

/-- What a step keeps: the laws of the part. -/
structure StepAnswer (s t : State) : Prop where
  productQueue : ProductQueueLaw s → ProductQueueLaw t
  window : WindowLaw s → WindowLaw t
  numbering : NumberingLaw s → NumberingLaw t
  pageOrder : PageOrderLaw s → PageOrderLaw t
  interrupt : InterruptLaw s → InterruptLaw t
  lineQueues : LineQueueLaw s → LineQueueLaw t
  bandCounts : BandCountLaw s → BandCountLaw t
  nozzleSets : NozzleSetLaw s → NozzleSetLaw t
  addresses : RecordAddressLaw s → RecordAddressLaw t
  suspension : SuspensionLaw s → SuspensionLaw t
  services : ServiceLaw s → ServiceLaw t

theorem Answer.step {c : Instr} {s t : State} (h : Answer c s t) : StepAnswer s t := { h.toKeeps, h with }

/-- The laws do not speak of the queue of commands. -/
theorem StepAnswer.of_withPending {s t : State} {rest : List Instr} (h : StepAnswer (s.withPending rest) t) :
    StepAnswer s t :=
  { h with
    numbering := fun k => h.numbering ⟨k.bands, k.nextBand, k.pages, k.nextPage⟩
    pageOrder := fun k => h.pageOrder ⟨k.openPage, k.prevPage, k.pred, k.firstBand⟩
    nozzleSets := fun k => h.nozzleSets ⟨k.active, k.staged, k.nozzles, k.drained⟩ }

theorem step_of_pending {s : State} {c : Instr} {rest : List Instr} (h : s.pending = c :: rest) :
    step s = exec c (s.withPending rest) := by
  unfold step; rw [h]

theorem step_of_no_pending {s : State} (h : s.pending = []) : step s = idleStep s := by
  unfold step; rw [h]

theorem step_answer {s t : State} (h : step s = .next t) : StepAnswer s t := by
  cases hp : s.pending with
  | cons c rest =>
    rw [step_of_pending hp] at h
    exact (Answer.of_exec h).step.of_withPending
  | nil =>
    rw [step_of_no_pending hp] at h
    unfold idleStep at h
    split at h
    · exact (Answer.of_exec h).step
    · cases h
      exact ((Steps.withTick s _).answer .forwardCount).step

/-! ## The part's own steps -/

theorem hasEffect_iff {s : State} {i : Instr} : hasEffect s i = true ↔ ∃ t, exec i s = .next t ∧ t ≠ s := by
  unfold hasEffect
  split
  next t ht => simp [ht]
  next f hf => simp [hf]
  next r hr => simp [hr]

theorem hasEffect_of_ownStep {s : State} {i : Instr} (h : ownStep s = some i) : hasEffect s i = true := by
  unfold ownStep at h
  split at h
  next j hj =>
    cases h
    have hdue := List.find?_some hj
    exact (Bool.and_eq_true_iff.1 hdue).2
  next => exact List.find?_some h

/-! ## The statements -/

/-- Settles O1: the two branches of `step`, and an own step is one that has an effect. -/
theorem stepRunsFrontCommand : Obligations.StepRunsFrontCommand := by
  refine ⟨fun c rest s => rfl, fun s hp => ⟨fun i hi => ⟨?_, hasEffect_iff.1 (hasEffect_of_ownStep hi)⟩, fun hn => ?_⟩⟩
  · rw [step_of_no_pending hp, idleStep, hi]
  · rw [step_of_no_pending hp, idleStep, hn]
    rfl

/-- Settles O2, by the answer of each command. -/
theorem everyCommandAnswersNext : Obligations.EveryCommandAnswersNext := by
  intro c s
  obtain ⟨t, ht, h⟩ := exec_answer c s
  exact ⟨t, ht, h.pending⟩

/-- Settles O3: the state after reset is what a chip reset leaves of it. -/
theorem resetKeepsEveryLaw : Obligations.ResetKeepsEveryLaw := by
  have h : AllLaws State.reset := chipReset_laws false false false State.reset
  exact ⟨h.productQueue, h.window, h.numbering, h.pageOrder, h.interrupt, h.lineQueues, h.bandCounts, h.nozzleSets,
    h.addresses, h.suspension, h.services⟩

/-- Settles O4, by what every step keeps. -/
theorem stepKeepsWindowAndInterrupt : Obligations.StepKeepsWindowAndInterrupt := by
  intro s t h
  have k := step_answer h
  exact ⟨k.productQueue, k.window, k.numbering, k.pageOrder, k.interrupt⟩

/-- Settles O5, by what every step keeps. -/
theorem stepKeepsLinesAndAccounts : Obligations.StepKeepsLinesAndAccounts := fun _ _ h =>
  ⟨(step_answer h).lineQueues, (step_answer h).bandCounts⟩

/-- Settles O6, by what every step keeps. -/
theorem stepKeepsNozzleSets : Obligations.StepKeepsNozzleSets := fun _ _ hs h => (step_answer h).nozzleSets hs

/-- Settles O7, by what every step keeps. -/
theorem stepKeepsReaderLaws : Obligations.StepKeepsReaderLaws := fun _ _ h =>
  ⟨(step_answer h).addresses, (step_answer h).suspension⟩

/-- Settles O8, by what every step keeps. -/
theorem stepKeepsHeadServices : Obligations.StepKeepsHeadServices := fun _ _ hs h => (step_answer h).services hs

/-- Settles O9, by what each command spares. -/
theorem onlyTheirCommandsChange : Obligations.OnlyTheirCommandsChange := by
  intro c s t ht hwf hreset
  have h := (Answer.of_exec ht).spares hwf hreset
  exact ⟨h.pos, h.layout, h.enables, h.listHead⟩

/-- Settles O10, by what each command spares. -/
theorem haltedIsLeftByAbortOrReset : Obligations.HaltedIsLeftByAbortOrReset := by
  intro c s t ht hwf hs ha hr hreset
  exact ((Answer.of_exec ht).spares hwf hreset).halted ha hr hs

/-- Settles O11, by the rules of a raised event. -/
theorem raisingAnEvent : Obligations.RaisingAnEvent := by
  intro e s t
  exact ⟨by rw [show t = raise e s from rfl, raise_ctl]; rfl, raise_irq_iff e s, raise_port e s, raise_onlyChanges e s⟩

end Sys2Proof.Machine

/-! PROOFS. The commands of the host: each refused or taken command as one next state (chapters 2 and 9). -/

namespace Sys2Proof.Machine

/-! ## When the engine's work is done -/

theorem reading_iff (s : State) : reading s = true ↔ s.ctl.engine = .running ∨ s.ctl.engine = .suspended := by
  unfold reading
  cases s.ctl.engine <;> simp

theorem nothingTaken_iff (s : State) :
    nothingTaken s = true ↔ ¬((∃ e n, s.reader.work = .editing e n) ∨ (∃ x l n, s.reader.work = .blockRead x l n) ∨
      ∃ l f n, s.reader.work = .configuring l f n) := by
  unfold nothingTaken
  cases s.reader.work <;> simp

theorem workDone_iff (s : State) :
    workDone s = true ↔
      s.win.bands = [] ∧ nothingTaken s = true ∧ s.port.failed = [] ∧ ∀ h, (s.map h).staged = none := by
  simp only [workDone, Bool.and_eq_true, List.isEmpty_iff, noneStaged_iff, and_assoc]

theorem drainEnds_of_done {s : State} (he : s.ctl.engine = .draining) (hd : workDone s = true) :
    drainEnds s = raise .stoppedEvent (setEngine .stopped (setWork .idle s)) := if_pos ⟨he, hd⟩

theorem drainEnds_of_not {s : State} (h : ¬(s.ctl.engine = .draining ∧ workDone s = true)) : drainEnds s = s := if_neg h

theorem abortEnds_of_done {s : State} (he : s.ctl.engine = .aborting) (hd : workDone s = true) :
    abortEnds s = raise .stoppedEvent (setEngine .stopped (setWork .idle (s.withWin (clearedPages s.win)))) :=
  if_pos ⟨he, hd⟩

theorem abortEnds_of_not {s : State} (h : ¬(s.ctl.engine = .aborting ∧ workDone s = true)) : abortEnds s = s := if_neg h

/-- Settles O33, by the two ends and their condition. -/
theorem drainAndAbortEnd : Obligations.DrainAndAbortEnd := by
  intro s taken done ended
  have hdone : workDone s = true ↔ done := by rw [workDone_iff, nothingTaken_iff]
  refine ⟨fun he hd => ?_, fun he hd => ?_, fun h => ?_, fun h => ?_⟩
  · exact congrArg Host.Outcome.next (drainEnds_of_done he (hdone.2 hd))
  · exact congrArg Host.Outcome.next (abortEnds_of_done he (hdone.2 hd))
  · refine congrArg Host.Outcome.next (drainEnds_of_not fun k => ?_)
    exact h.elim (fun n => n k.1) fun n => n (hdone.1 k.2)
  · refine congrArg Host.Outcome.next (abortEnds_of_not fun k => ?_)
    exact h.elim (fun n => n k.1) fun n => n (hdone.1 k.2)

/-! ## Commands taken and refused -/

/-- Settles O22: the taken branch of START. -/
theorem startBeginsAtListHead : Obligations.StartBeginsAtListHead := by
  intro s he hhead
  have htaken : startTaken s = true := by
    simp only [startTaken, he, decide_true, Bool.true_and]
    exact decide_eq_true hhead
  exact congrArg Host.Outcome.next (if_pos htaken)

theorem takeStart_of_refused {s : State} (h : s.ctl.engine ≠ .stopped ∨ recordAddr s.reader.listHead = 0) :
    takeStart s = rejectCommand s := by
  have hnot : startTaken s = false := by
    rcases h with h | h
    · rw [startTaken, decide_eq_false h, Bool.false_and]
    · simp [startTaken, h]
  rw [takeStart, hnot]
  exact if_neg Bool.false_ne_true

theorem takeStop_of_refused {s : State} (h : s.ctl.engine ≠ .running) (k : s.ctl.engine ≠ .suspended) :
    takeStop s = rejectCommand s :=
  if_neg fun hr => ((reading_iff s).1 hr).elim h k

theorem takePoke_of_refused {s : State} (h : s.ctl.engine ≠ .running) (k : s.ctl.engine ≠ .suspended) :
    takePoke s = rejectCommand s := by
  unfold takePoke
  split
  next e => exact absurd e k
  next e => exact absurd e h
  all_goals rfl

theorem takeAbort_of_refused {s : State} (h : s.ctl.engine = .stopped ∨ s.ctl.engine = .aborting) :
    takeAbort s = rejectCommand s := by
  unfold takeAbort
  rcases h with h | h <;> rw [h]

theorem writeListHead_of_refused {s : State} (h : s.ctl.engine ≠ .stopped) (high : Bool) (v : Word32) :
    writeListHead high v s = rejectCommand s := if_neg h

theorem commandCode_eq_none {v : Word32} (h : (v.extractLsb' 0 8).toNat = 0 ∨ 5 < (v.extractLsb' 0 8).toNat) :
    commandCode v = none := by
  unfold commandCode
  split
  all_goals first | rfl | omega

/-- Settles O23: the refused branch of each command. -/
theorem refusedCommandsOnlyRaise : Obligations.RefusedCommandsOnlyRaise := by
  intro s refused
  refine ⟨fun h => congrArg _ (takeStart_of_refused h), fun h k => ?_, fun h => congrArg _ (takeAbort_of_refused h),
    fun h high v b => congrArg Host.Outcome.next (writeListHead_of_refused h _ _), fun v b h => ?_⟩
  · exact ⟨congrArg _ (takeStop_of_refused h k), congrArg _ (takePoke_of_refused h k),
      fun v b => congrArg _ (takePoke_of_refused h k)⟩
  · refine congrArg Host.Outcome.next ?_
    rw [writeEngineControl, commandCode_eq_none h]
    rfl

theorem takePoke_of_running {s : State} (h : s.ctl.engine = .running) :
    takePoke s = s.withReader { s.reader with pokePending := true } := by
  unfold takePoke
  rw [h]

theorem takePoke_of_suspendedOwner {s : State} (h : s.ctl.engine = .suspended) (hc : s.reader.cond = .suspendedOwner) :
    takePoke s = readHeader (setEngine .running s) := by
  unfold takePoke
  rw [h, hc]

theorem takePoke_of_suspendedEnd {s : State} (h : s.ctl.engine = .suspended) (hc : s.reader.cond = .suspendedEnd) :
    takePoke s = readNext (setEngine .running s) := by
  unfold takePoke
  rw [h, hc]

/-- Settles O27: both writes are the one poke. -/
theorem pokeResumesReader : Obligations.PokeResumesReader := by
  intro s c hc
  have hexec : exec c s = .next (takePoke s) := by
    rcases hc with rfl | ⟨v, b, rfl⟩ <;> rfl
  rw [hexec]
  exact ⟨fun h => congrArg _ (takePoke_of_running h), fun h k => congrArg _ (takePoke_of_suspendedOwner h k),
    fun h k => congrArg _ (takePoke_of_suspendedEnd h k)⟩

/-- What STOP does before its end is judged. -/
theorem takeStop_of_reading {s : State} (h : reading s = true) (w : ReaderWork) (p : MemoryPort)
    (hleft : stopReader s = (s.withReader { s.reader with work := w }).withPort p) :
    takeStop s = drainEnds { s with
      ctl := { s.ctl with engine := .draining }
      reader := { s.reader with pokePending := false, work := w }
      port := p } := by
  unfold takeStop
  rw [if_pos h, hleft]
  rfl

theorem dropTransfer_failed (x : Nat) (p : MemoryPort) : (dropTransfer x p).failed = p.failed := by
  obtain ⟨g, hg⟩ := freeGrant_spec { p with transfers := p.transfers.filter fun t => decide (t.id ≠ x) }
  rw [dropTransfer, hg]

/-- Settles O24, by the reader's work at STOP and the end of DRAINING. -/
theorem stopDrains : Obligations.StopDrains := by
  intro s hs left s1 taken done
  have hstop : takeStop s = drainEnds s1 := by
    have hdrop : ∀ x, readerXfer s.reader.work = some x →
        discardReads s = (s.withReader { s.reader with work := .idle }).withPort (dropTransfer x s.port) := by
      intro x hx
      rw [discardReads, hx]
      rfl
    refine takeStop_of_reading ((reading_iff s).2 hs) left.1 left.2 ?_
    unfold stopReader
    cases hw : s.reader.work with
    | headerRead x => rw [hdrop x (by rw [hw]; rfl), show left = (.idle, dropTransfer x s.port) by simp only [left, hw]]
    | bodyFixed x ty n =>
      rw [hdrop x (by rw [hw]; rfl), show left = (.idle, dropTransfer x s.port) by simp only [left, hw]]
    | bodyList x ty n f =>
      rw [hdrop x (by rw [hw]; rfl), show left = (.idle, dropTransfer x s.port) by simp only [left, hw]]
    | nextRead x => rw [hdrop x (by rw [hw]; rfl), show left = (.idle, dropTransfer x s.port) by simp only [left, hw]]
    | held b n a => rw [show left = (.held b n true, s.port) by simp only [left, hw]]; rfl
    | idle => rw [show left = (s.reader.work, s.port) by simp only [left, hw]]; rfl
    | editing e n => rw [show left = (s.reader.work, s.port) by simp only [left, hw]]; rfl
    | blockRead x l n => rw [show left = (s.reader.work, s.port) by simp only [left, hw]]; rfl
    | configuring l f n => rw [show left = (s.reader.work, s.port) by simp only [left, hw]]; rfl
  have htaken : nothingTaken s1 = true ↔ ¬taken := by
    have hwork : s1.reader.work = left.1 := rfl
    rw [nothingTaken_iff, hwork]
    show _ ↔ ¬(match left.1 with | .editing _ _ | .blockRead _ _ _ | .configuring _ _ _ => True | _ => False)
    cases left.1 <;> simp
  have hfailed : s1.port.failed = s.port.failed := by
    show left.2.failed = _
    cases hw : s.reader.work <;> simp [left, hw, dropTransfer_failed]
  have hdone : workDone s1 = true ↔ done := by
    rw [workDone_iff, htaken, hfailed]
    rfl
  constructor
  · intro h
    exact congrArg Host.Outcome.next (hstop.trans (drainEnds_of_not fun k => h (hdone.1 k.2)))
  · intro h
    exact congrArg Host.Outcome.next (hstop.trans (drainEnds_of_done rfl (hdone.2 h)))

/-! ## ENGINE_RESET and chip reset -/

theorem resetLink_eq (now : Nat) (d : HeadLink) :
    resetLink now d =
      { d with
        service := if d.service = .configuring ∨ d.service = .returning ∨ d.service = .parked then .parked else d.service
        returnBand := none, ready := false, config := none, queue := [], frame := none, again := none
        link := .resetting (now + 100)
        timer := if d.service = .configuring ∨ d.service = .returning ∨ d.service = .parked
          then some (now + 100 + 100000) else none } := by
  unfold resetLink
  cases hs : d.service <;> rfl

theorem takeEngineReset_onlyChanges (s : State) :
    OnlyChanges [.ctl, .posn, .reader, .win, .port, .chans, .heads, .maps] s (takeEngineReset s) := by
  intro p hp
  cases p <;> first | rfl | exact absurd (by decide) hp

/-- Settles O26, by the reset of each channel, head and map. -/
theorem engineResetEmptiesWork : Obligations.EngineResetEmptiesWork := by
  intro s
  refine ⟨takeEngineReset s, rfl, rfl, rfl, rfl, rfl, rfl, fun c => getElem_tabulate 32 _ c, fun h => ?_, fun h => ?_,
    takeEngineReset_onlyChanges s⟩
  · exact (getElem_tabulate 16 _ h).trans (resetLink_eq _ _)
  · have hmap : (takeEngineReset s).map h = resetMap s h := getElem_tabulate 16 _ h
    rw [hmap]
    exact resetMap_eq s h

/-- Settles O32, by the reset values of the three tables. -/
theorem chipResetLeavesResetValues : Obligations.ChipResetLeavesResetValues := by
  intro s x y z
  refine ⟨chipResetState x y z s, rfl, rfl, rfl, rfl, rfl, rfl, rfl, rfl, rfl, rfl, rfl, rfl, rfl, rfl, rfl, rfl, rfl,
    rfl, rfl, rfl, fun h => ?_, fun c => ?_, fun h => ?_, fun g => ?_, rfl, rfl, rfl, rfl, rfl, rfl⟩
  · have hmap : (chipResetState x y z s).map h = { active := [], staged := none, hold := none } := reset_map h
    rw [hmap]
    exact ⟨rfl, rfl, rfl⟩
  · have hchan : (chipResetState x y z s).chan c = Channel.reset := reset_lineQueues c
    rw [hchan]
    exact ⟨rfl, rfl, rfl, rfl, rfl, rfl, rfl, rfl, rfl⟩
  · have hhead : (chipResetState x y z s).head h = HeadLink.reset := reset_head h
    rw [hhead]
    refine ⟨rfl, rfl, rfl, rfl, rfl, rfl, rfl, rfl, rfl, rfl, fun i => ?_⟩
    simp [HeadLink.reset]
  · simp [chipResetState, State.reset]

end Sys2Proof.Machine

/-! PROOFS. The register window (9.8, 10.8). -/

namespace Sys2Proof.Machine

/-! ## Writes by word -/

theorem writeWindow_eq (off : BitVec 12) (v : Word32) (s : State) :
    writeWindow off v s =
      match (off &&& 0xFFC#12).toNat with
      | 0x00 => writeEngineControl v s
      | 0x04 => takePoke s
      | 0x08 => writeListHead false v s
      | 0x0C => writeListHead true v s
      | 0x1C => writeEvents v s
      | 0x20 => writeEnables v s
      | _ => s := rfl

theorem commandCode_of_code {v : Word32} {n : Nat} : (v.extractLsb' 0 8).toNat = n →
    commandCode v = match n with
      | 1 => some .start
      | 2 => some .stop
      | 3 => some .abort
      | 4 => some .engineReset
      | 5 => some .poke
      | _ => none := by
  rintro rfl
  rfl

/-- A write to a word that has no behaviour of its own. -/
theorem writeWindow_of_other {off : BitVec 12} (h : (off &&& 0xFFC#12).toNat ∉ [0x00, 0x04, 0x08, 0x0C, 0x1C, 0x20])
    (v : Word32) (s : State) : writeWindow off v s = s := by
  simp only [List.mem_cons, List.not_mem_nil, or_false, not_or] at h
  obtain ⟨h0, h4, h8, h12, h28, h32⟩ := h
  rw [writeWindow_eq]
  split
  all_goals first | rfl | contradiction

/-- Settles O28, by the decoding of the window and of the command code. -/
theorem registerWindowWrites : Obligations.RegisterWindowWrites := by
  intro s v b off code word
  have hcommand : ∀ c, commandCode (accessed v b) = c → exec (.unknownCommandCode v b) s =
      .next (match c with
        | some .start => takeStart s | some .stop => takeStop s | some .abort => takeAbort s
        | some .engineReset => takeEngineReset s | some .poke => takePoke s | none => rejectCommand s) := by
    rintro c rfl
    rfl
  have hword : exec (.registerWrite off v b) s = .next (match word with
      | 0x00 => writeEngineControl (accessed v b) s
      | 0x04 => takePoke s
      | 0x08 => writeListHead false (accessed v b) s
      | 0x0C => writeListHead true (accessed v b) s
      | 0x1C => writeEvents (accessed v b) s
      | 0x20 => writeEnables (accessed v b) s
      | _ => s) := rfl
  refine ⟨fun h => hcommand _ (commandCode_of_code h), fun h => hcommand _ (commandCode_of_code h),
    fun h => hcommand _ (commandCode_of_code h), fun h => hcommand _ (commandCode_of_code h),
    fun h => hcommand _ (commandCode_of_code h), ?_, ?_, ?_, ?_, ?_, ?_, fun h => ?_⟩
  case refine_7 => exact congrArg Host.Outcome.next (writeWindow_of_other h _ s)
  all_goals
    intro h
    rw [hword, h]
    rfl

/-! ## LIST_HEAD (R24) -/

theorem append_high (top low : Word32) : (top ++ low : BitVec (32 + 32)).extractLsb' 32 32 = top := by
  refine BitVec.eq_of_getLsbD_eq fun i hi => ?_
  rw [BitVec.getLsbD_extractLsb', BitVec.getLsbD_append]
  simp [hi]

theorem append_low (top low : Word32) : (top ++ low : BitVec (32 + 32)).extractLsb' 0 32 = low := by
  refine BitVec.eq_of_getLsbD_eq fun i hi => ?_
  rw [BitVec.getLsbD_extractLsb', BitVec.getLsbD_append]
  simp [hi]

/-- Settles O29: each write keeps the other word. -/
theorem listHeadWriteTaken : Obligations.ListHeadWriteTaken := by
  intro s v b hs
  refine ⟨_, _, congrArg Host.Outcome.next (if_pos hs), congrArg Host.Outcome.next (if_pos hs), ?_, ?_, ?_, ?_⟩
  · exact append_high _ _
  · exact append_low _ _
  · exact append_high _ _
  · exact append_low _ _

/-! ## EVENTS and EVENT_ENABLE (R190, R191) -/

theorem setEvents_port (events enables : BitVec 9) (s : State) :
    (setEvents events enables s).port =
      if irqOf events enables && !s.ctl.irq && s.port.linkUp
        then { s.port with outbox := s.port.outbox ++ [.interrupt] } else s.port := by
  rw [setEvents_spec]
  rfl

theorem setEvents_onlyChanges (events enables : BitVec 9) (s : State) :
    OnlyChanges [.ctl, .port] s (setEvents events enables s) := by
  rw [setEvents_spec]
  intro p hp
  cases p <;> first | rfl | exact absurd (by decide) hp

/-- Flags and enables written: the interrupt output follows, its rise posts one message, and nothing else changes. -/
theorem setEvents_follows (events enables : BitVec 9) (s : State) :
    let t := setEvents events enables s
    (t.ctl.irq = true ↔
      ∃ f : Event, t.ctl.events.getLsbD (eventBit f) = true ∧ t.ctl.enables.getLsbD (eventBit f) = true) ∧
    t.port = (if t.ctl.irq && !s.ctl.irq && s.port.linkUp
      then { s.port with outbox := s.port.outbox ++ [.interrupt] } else s.port) ∧
    OnlyChanges [.ctl, .port] s t := by
  refine ⟨?_, ?_, setEvents_onlyChanges _ _ s⟩
  · rw [setEvents_engine]; exact irqOf_iff _ _
  · rw [setEvents_engine]; exact setEvents_port _ _ _

/-- Settles O30, by what a change of flags and enables brings. -/
theorem eventRegisterWrites : Obligations.EventRegisterWrites := by
  intro s v b follows
  refine ⟨⟨_, rfl, setEvents_follows _ _ s, ?_, fun i hi => ?_⟩, ⟨_, rfl, setEvents_follows _ _ s, ?_, fun i hi => ?_⟩⟩
  · rw [writeEvents, setEvents_engine]
  · rw [writeEvents, setEvents_engine]
    simp [hi]
  · rw [writeEnables, setEvents_engine]
  · rw [writeEnables, setEvents_engine]
    simp [hi]

/-! ## Reads (R192, R193) -/

theorem byteMask_bit (b : BitVec 4) (i : Nat) (hi : i < 32) : (byteMask b).getLsbD i = b.getLsbD (i / 8) := by
  revert b i
  decide

theorem accessed_bit (v : Word32) (b : BitVec 4) (i : Nat) (hi : i < 32) :
    (accessed v b).getLsbD i = (b.getLsbD (i / 8) && v.getLsbD i) := by
  rw [accessed, BitVec.getLsbD_and, byteMask_bit b i hi, Bool.and_comm]

theorem accessed_all (v : Word32) : accessed v 0xF#4 = v := by
  refine BitVec.eq_of_getLsbD_eq fun i hi => ?_
  rw [accessed_bit v _ i hi]
  have hbyte : (0xF#4).getLsbD (i / 8) = true := by
    have : i / 8 < 4 := by omega
    interval_cases i / 8 <;> rfl
  rw [hbyte, Bool.true_and]

/-- Three codes packed a byte each are read off their bytes. -/
theorem packed_bytes (a b c : Nat) (ha : a < 256) (hb : b < 256) (hc : c < 256) :
    let w := BitVec.ofNat 32 (a + 256 * b + 65536 * c)
    w.extractLsb' 0 8 = BitVec.ofNat 8 a ∧ w.extractLsb' 8 8 = BitVec.ofNat 8 b ∧
      w.extractLsb' 16 8 = BitVec.ofNat 8 c ∧ w.extractLsb' 24 8 = 0 := by
  refine ⟨?_, ?_, ?_, ?_⟩
  all_goals
    apply BitVec.eq_of_toNat_eq
    simp [BitVec.extractLsb'_toNat, Nat.shiftRight_eq_div_pow]
    omega

theorem foldl_or_bit {α : Type} (l : List α) (f : α → Word32) (w : Word32) (i : Nat) :
    (l.foldl (fun w h => w ||| f h) w).getLsbD i = (w.getLsbD i || l.any fun h => (f h).getLsbD i) := by
  induction l generalizing w with
  | nil => simp
  | cons x xs ih => simp [ih, Bool.or_assoc]

theorem servicePair_lt (x : Service) : servicePair x < 4 := by cases x <;> decide

/-- A pair stands in the two bits of its own head alone. -/
theorem pair_bit (p : Nat) (hp : p < 4) (g h : Nat) (hh : h < 16) (j : Nat) (hj : j < 2) :
    (BitVec.ofNat 32 p <<< (2 * g)).getLsbD (2 * h + j) = (decide (g = h) && p.testBit j) := by
  rw [BitVec.getLsbD_shiftLeft, BitVec.getLsbD_ofNat]
  rcases lt_trichotomy g h with hlt | rfl | hgt
  · have hzero : p.testBit (2 * h + j - 2 * g) = false :=
      Nat.testBit_lt_two_pow (hp.trans_le (Nat.pow_le_pow_right (n := 2) (i := 2) (by omega) (by omega)))
    simp [hzero, hlt.ne]
  · have h32 : 2 * g + j < 32 := by omega
    have hj32 : j < 32 := by omega
    simp [h32, hj32]
  · have hlow : 2 * h + j < 2 * g := by omega
    simp [hlow, hgt.ne']

theorem headStateWord_pair (s : State) (h : HeadId) :
    (headStateWord s).extractLsb' (2 * h.val) 2 = BitVec.ofNat 2 (servicePair (s.head h).service) := by
  refine BitVec.eq_of_getLsbD_eq fun j hj => ?_
  have hany : (allHeads.any fun g => decide (g.val = h.val) && (servicePair (s.head g).service).testBit j) =
      (servicePair (s.head h).service).testBit j := by
    rw [Bool.eq_iff_iff]
    simp only [List.any_eq_true, Bool.and_eq_true, decide_eq_true_eq]
    constructor
    · rintro ⟨g, -, hg, hbit⟩
      rwa [← Fin.ext hg]
    · exact fun hbit => ⟨h, by simp [allHeads], rfl, hbit⟩
  rw [BitVec.getLsbD_extractLsb', headStateWord, foldl_or_bit]
  simp only [pair_bit _ (servicePair_lt _) _ h.val h.isLt j hj]
  rw [hany, BitVec.getLsbD_ofNat (n := 2)]
  simp [hj]

/-- A word that holds nothing. -/
theorem readWord_of_other {word : Nat} (h : word ∉ [0x08, 0x0C, 0x10, 0x14, 0x18, 0x1C, 0x20, 0x24, 0x28]) (s : State) :
    readWord word s = 0 := by
  simp only [List.mem_cons, List.not_mem_nil, or_false, not_or] at h
  obtain ⟨h8, h12, h16, h20, h24, h28, h32, h36, h40⟩ := h
  unfold readWord
  split
  all_goals first | rfl | contradiction

/-- Settles O31: the two reads of CURRENT_RECORD, and each word as it stands. -/
theorem currentRecordReads : Obligations.CurrentRecordReads := by
  intro s b
  refine ⟨rfl, ?_, ?_⟩
  · show execCurrentRecordHighRead b s = _
    unfold execCurrentRecordHighRead
    cases s.ctl.capture <;> rfl
  intro off word all
  have hall : all = readWord word s := accessed_all _
  refine ⟨fun i hi => ?bits, ?_, ?_, fun h => ?status, ?_, ?_, ?_, fun h g => ?heads, fun h => ?other⟩
  case bits =>
    have hpart : readRegister off b s = accessed (readWord word s) b := rfl
    rw [hpart, accessed_bit _ _ i hi, hall]
  case status =>
    have hstatus : all = BitVec.ofNat 32
        (engineCode s.ctl.engine + 256 * causeCode s.ctl.cause + 65536 * conditionCode s.reader.cond) := by
      rw [hall, h]; rfl
    rw [hstatus]
    obtain ⟨he, hc, hr, hz⟩ := packed_bytes (engineCode s.ctl.engine) (causeCode s.ctl.cause)
      (conditionCode s.reader.cond) (by cases s.ctl.engine <;> decide) (by cases s.ctl.cause <;> decide)
      (by cases s.reader.cond <;> decide)
    refine ⟨he.trans ?_, hc.trans ?_, hr.trans ?_, hz⟩
    · cases s.ctl.engine <;> rfl
    · cases s.ctl.cause <;> rfl
    · cases s.reader.cond <;> rfl
  case heads =>
    rw [hall, h]
    refine (headStateWord_pair s g).trans ?_
    cases (s.head g).service <;> rfl
  case other =>
    rw [hall]
    exact readWord_of_other h s
  all_goals
    intro h
    rw [hall, h]
    rfl

end Sys2Proof.Machine

/-! PROOFS. The List Reader: each completion, failure and close as one next state (chapter 2). -/

namespace Sys2Proof.Machine

/-! ## Units and events in the outbox -/

/-- A raised event adds to the outbox, and changes nothing else of the port. -/
theorem raise_port_adds (e : Event) (s : State) :
    ∃ tail, (raise e s).port = { s.port with outbox := s.port.outbox ++ tail } := by
  rw [raise_port]
  split
  · exact ⟨[.interrupt], rfl⟩
  · exact ⟨[], by rw [List.append_nil]⟩

/-- Settles O40: the three outcomes of handing a unit over. -/
theorem writeBackUnitPosted : Obligations.WriteBackUnitPosted := by
  intro u s posted
  refine ⟨fun hup hn => ?_, fun hup hn => ?_, fun hdown => ?_⟩
  · rw [handOver_spec, hup, hn]; rfl
  · rw [handOver_spec, hup, hn]; rfl
  · rw [handOver_spec, hdown]; rfl

/-! ## The reader's moves -/

/-- A reading engine becomes SUSPENDED. -/
theorem suspendReader_of_reading {s : State} (h : s.ctl.engine = .running ∨ s.ctl.engine = .suspended)
    (c : ReaderCondition) :
    suspendReader c s = raise .readerSuspended
      { s with reader := { s.reader with cond := c, work := .idle }, ctl := { s.ctl with engine := .suspended } } := by
  have hset : (if s.ctl.engine = .running then
      setEngine .suspended (s.withReader { s.reader with cond := c, work := .idle })
      else s.withReader { s.reader with cond := c, work := .idle }) =
      { s with reader := { s.reader with cond := c, work := .idle }, ctl := { s.ctl with engine := .suspended } } := by
    split
    next => rfl
    next hne =>
      have he : s.ctl.engine = .suspended := h.resolve_left hne
      rw [← he]
      rfl
  exact congrArg (raise .readerSuspended) hset

theorem followNext_of_reading {s : State} (h : s.ctl.engine = .running ∨ s.ctl.engine = .suspended) (next : Addr) :
    followNext next s =
      if next ≠ 0 then readHeader ((setWork .idle s).withReader { (setWork .idle s).reader with addr := next })
      else if s.reader.pokePending then
        readNext ((setWork .idle s).withReader { (setWork .idle s).reader with pokePending := false })
      else suspendReader .suspendedEnd (setWork .idle s) := by
  unfold followNext
  rcases h with h | h <;> rw [h]

theorem followNext_of_draining {s : State} (h : s.ctl.engine = .draining) (next : Addr) :
    followNext next s =
      { s with reader := { s.reader with addr := if next = 0 then s.reader.addr else next, work := .idle } } := by
  unfold followNext
  rw [h]
  dsimp only
  by_cases hn : next = 0
  · rw [if_neg (by simpa using hn), if_pos hn]; rfl
  · rw [if_pos hn, if_neg hn]; rfl

theorem followNext_of_not_running {s : State}
    (h : s.ctl.engine = .stopped ∨ s.ctl.engine = .halted ∨ s.ctl.engine = .aborting) (next : Addr) :
    followNext next s = setWork .idle s := by
  unfold followNext
  rcases h with h | h | h <;> rw [h]

theorem execNextFieldReadComplete_of_read {s : State} {x : Nat} {bs : List Byte} (hw : s.reader.work = .nextRead x)
    (hb : transferBytes s.port x = some bs) (hr : reading s = true) :
    execNextFieldReadComplete s = .next (actOnNext bs (discard x s)) := by
  unfold execNextFieldReadComplete
  simp only [hw, hb, hr, if_true]

/-- Settles O36, by the branches of `followNext`. -/
theorem nextFollowed : Obligations.NextFollowed := by
  refine ⟨fun s next => ⟨fun h => ⟨fun hn => ?_, fun hn hp => ?_, fun hn hp => ?_⟩, fun h => ?_, fun h => ?_⟩,
    fun s x bs hw hb he => ?_⟩
  · rw [followNext_of_reading h, if_pos hn]
    rfl
  · rw [followNext_of_reading h, if_neg (not_not.2 hn), if_pos hp]
    rfl
  · rw [followNext_of_reading h, if_neg (not_not.2 hn), hp]
    exact suspendReader_of_reading (s := setWork .idle s) h _
  · exact followNext_of_draining h next
  · exact followNext_of_not_running (.inr (.inr h)) next
  · exact execNextFieldReadComplete_of_read hw hb ((reading_iff s).2 he)

/-! ## Header and body -/

theorem discard_nextXfer (x : Nat) (s : State) : (discard x s).port.nextXfer = s.port.nextXfer := by
  obtain ⟨g, e⟩ := discard_spec x s
  rw [e]
  rfl

theorem execHeaderReadComplete_of_read {s : State} {x : Nat} {bs : List Byte} (hw : s.reader.work = .headerRead x)
    (hb : transferBytes s.port x = some bs) (hr : reading s = true) :
    execHeaderReadComplete s = .next (actOnHeader bs (discard x s)) := by
  unfold execHeaderReadComplete
  simp only [hw, hb, hr, if_true]

/-- A record is acted on when it is device-owned and no open band has its address (R22, R25). -/
theorem header_owned_iff (bs : List Byte) (s : State) :
    (headerOwn bs && !matchesOpenBand s) = true ↔
      (BitVec.ofNat 8 (field bs 0 1)).getLsbD 0 = true ∧ ∀ b ∈ s.win.bands, b.addr ≠ s.reader.addr := by
  simp [headerOwn, matchesOpenBand]

/-- Settles O34, by the two tests on a header. -/
theorem headerActedOn : Obligations.HeaderActedOn := by
  intro s x bs hw hb he s1 owned type next
  have hexec : exec .headerReadComplete s = .next (actOnHeader bs (discard x s)) :=
    execHeaderReadComplete_of_read hw hb ((reading_iff s).2 he)
  have howned : (headerOwn bs && !matchesOpenBand (discard x s)) = true ↔ owned := header_owned_iff bs s
  rw [hexec]
  unfold actOnHeader
  refine ⟨fun ho k hk => ?_, fun ho hk => ?_, fun ho hp => ?_, fun ho hp => ?_⟩
  · rw [if_pos (howned.2 ho), show recordType (field bs 1 1) = some k from hk]
    show Host.Outcome.next (readBody k next (discard x s)) = _
    rw [readBody, discard_nextXfer]
    rfl
  · rw [if_pos (howned.2 ho), show recordType (field bs 1 1) = none from hk]
    rfl
  · rw [if_neg (mt howned.1 ho), if_pos (show (discard x s).reader.pokePending = true from hp), readHeader,
      State.withReader_port, discard_nextXfer]
    rfl
  · rw [if_neg (mt howned.1 ho),
      if_neg (show ¬(discard x s).reader.pokePending = true by rw [show (discard x s).reader = s.reader from rfl, hp]; nofun)]
    exact congrArg Host.Outcome.next (suspendReader_of_reading (s := discard x s) he _)

theorem execBodyReadComplete_of_fixed {s : State} {x : Nat} {k : RecordType} {next : Addr} {bs : List Byte}
    (hw : s.reader.work = .bodyFixed x k next) (hb : transferBytes s.port x = some bs) (hr : reading s = true) :
    execBodyReadComplete s = .next (actOnFixed k next bs (discard x s)) := by
  unfold execBodyReadComplete
  simp only [hw, hb, hr, if_true]

theorem execBodyReadComplete_of_list {s : State} {x : Nat} {k : RecordType} {next : Addr} {fixed bs : List Byte}
    (hw : s.reader.work = .bodyList x k next fixed) (hb : transferBytes s.port x = some bs) (hr : reading s = true) :
    execBodyReadComplete s = .next (holdRecord (recordBody k fixed bs) next (discard x s)) := by
  unfold execBodyReadComplete
  simp only [hw, hb, hr, if_true]

/-- A record read whole goes to `holdRecord`, from its fixed part or from its list. -/
theorem execBodyReadComplete_of_whole {s : State} {x : Nat} {k : RecordType} {next : Addr} {bs fixed list : List Byte}
    (hb : transferBytes s.port x = some bs) (hr : reading s = true)
    (h : (s.reader.work = .bodyFixed x k next ∧ listBytes k bs = 0 ∧ fixed = bs ∧ list = []) ∨
      (s.reader.work = .bodyList x k next fixed ∧ list = bs)) :
    execBodyReadComplete s = .next (holdRecord (recordBody k fixed list) next (discard x s)) := by
  rcases h with ⟨hw, hlist, rfl, rfl⟩ | ⟨hw, rfl⟩
  · rw [execBodyReadComplete_of_fixed hw hb hr, actOnFixed, if_pos hlist]
  · exact execBodyReadComplete_of_list hw hb hr

/-- Settles O35, by the type of the record read whole. -/
theorem bodyHeldByType : Obligations.BodyHeldByType := by
  intro s x k next bs fixed list hb he s1
  have hr := (reading_iff s).2 he
  refine ⟨fun hw hlist => ?_, fun h => ?_⟩
  · show execBodyReadComplete s = _
    rw [execBodyReadComplete_of_fixed hw hb hr, actOnFixed, if_neg hlist, discard_nextXfer]
    rfl
  · intro holds body
    have hexec : exec .bodyReadComplete s = .next (holdRecord body next (discard x s)) :=
      execBodyReadComplete_of_whole hb hr h
    rw [hexec]
    cases body with
    | band b =>
      refine congrArg Host.Outcome.next ?_
      show (if (discard x s).layout.isNone = true then _ else _) = _
      by_cases hl : s.layout = none
      · rw [if_pos (show (discard x s).layout.isNone = true from Option.isNone_iff_eq_none.2 hl), if_pos hl]
        rfl
      · rw [if_neg (show ¬(discard x s).layout.isNone = true from mt Option.isNone_iff_eq_none.1 hl), if_neg hl]
        rfl
    | edit e =>
      refine congrArg Host.Outcome.next ?_
      have hwaits : (!e.immediate && ((discard x s).map e.head).staged.isSome) = true ↔
          e.immediate = false ∧ (s.map e.head).staged ≠ none := by
        rw [show (discard x s).map e.head = s.map e.head from rfl]
        simp [Option.isSome_iff_ne_none]
      show (if (!e.immediate && ((discard x s).map e.head).staged.isSome) = true then _ else _) = _
      by_cases hw : e.immediate = false ∧ (s.map e.head).staged ≠ none
      · rw [if_pos (hwaits.2 hw), if_pos hw]
        rfl
      · rw [if_neg (mt hwaits.1 hw), if_neg hw]
        rfl
    | layout l =>
      refine congrArg Host.Outcome.next ?_
      show (if (discard x s).win.bands.isEmpty = true then _ else _) = _
      by_cases hbands : s.win.bands = []
      · rw [if_pos (show (discard x s).win.bands.isEmpty = true from List.isEmpty_iff.2 hbands), if_pos hbands]
        rfl
      · rw [if_neg (show ¬(discard x s).win.bands.isEmpty = true from mt List.isEmpty_iff.1 hbands), if_neg hbands]
        rfl

/-! ## Layout records -/

theorem headBit_getLsbD : ∀ g h : HeadId, (1#16 <<< g.val).getLsbD h.val = decide (h = g) := by decide

theorem parkMask_bit (s : State) (h : HeadId) :
    (parkMask s).getLsbD h.val = decide ((s.head h).service = .parked) := by
  have hfold : ∀ (l : List HeadId) (m : BitVec 16),
      (l.foldl (fun m g => if (s.head g).service = .parked then m ||| (1#16 <<< g.val) else m) m).getLsbD h.val =
        (m.getLsbD h.val || decide (h ∈ l ∧ (s.head h).service = .parked)) := by
    intro l
    induction l with
    | nil => simp
    | cons g l ih =>
      intro m
      rw [List.foldl_cons, ih]
      by_cases hg : (s.head g).service = .parked
      · rw [if_pos hg, BitVec.getLsbD_or, headBit_getLsbD]
        by_cases hh : h = g
        · subst hh; simp [hg]
        · simp [hh]
      · rw [if_neg hg]
        by_cases hh : h = g
        · subst hh; simp [hg]
        · simp [hh]
  have hall : h ∈ allHeads := by simp [allHeads]
  rw [parkMask, hfold]
  simp [hall]

theorem noneConfiguring_iff (s : State) : noneConfiguring s = true ↔ ∀ h, (s.head h).service ≠ .configuring := by
  simp [noneConfiguring, allHeads]

/-- Settles O44, by the conditions of the two steps. -/
theorem layoutRecordTakenAndClosed : Obligations.LayoutRecordTakenAndClosed := by
  refine ⟨fun s l next hw he hbands hstaged => ?_, fun s l flags next hw hworking hnone =>
    ⟨parkMask s, parkMask_bit s, ?_⟩⟩
  · have hcond : (reading s && s.win.bands.isEmpty && noneStaged s) = true := by
      simp only [Bool.and_eq_true]
      exact ⟨⟨(reading_iff s).2 (.inl he), List.isEmpty_iff.2 hbands⟩, (noneStaged_iff s).2 hstaged⟩
    show execLayoutTaken s = _
    unfold execLayoutTaken
    simp only [hw, hcond, if_true]
    rfl
  · have hcond : (working s && noneConfiguring s) = true := by
      rw [hworking, (noneConfiguring_iff s).2 hnone]; rfl
    show execLayoutRecordClose s = _
    unfold execLayoutRecordClose
    simp only [hw, hcond, if_true]
    rfl

/-! ## Failures -/

theorem halt_of_working {s : State} (h : working s = true) (c : HaltCause) :
    halt c s = raise .engineHalted (discardReads (s.withCtl { s.ctl with engine := .halted, cause := c })) := if_pos h

theorem discardReads_onlyChanges (s : State) : OnlyChanges [.reader, .port] s (discardReads s) := by
  unfold discardReads
  split
  · exact (((discard_onlyChanges _ s).trans (withReader_onlyChanges _ _)).mono (by decide))
  · exact .refl _ s

theorem halt_onlyChanges (c : HaltCause) (s : State) : OnlyChanges [.ctl, .reader, .port] s (halt c s) := by
  unfold halt
  refine .ite (fun _ => ?_) fun _ => .refl _ s
  exact (((withCtl_onlyChanges s _).trans (discardReads_onlyChanges _)).trans (raise_onlyChanges _ _)).mono (by decide)

/-- A halt of a working engine: the cause, the flag, and what it leaves of the reader's read. -/
theorem halt_ctl_of_working {s : State} (h : working s = true) (c : HaltCause) :
    (halt c s).ctl = { s.ctl with engine := .halted, cause := c, events := s.ctl.events ||| 1#9 <<< eventBit .engineHalted,
                                  irq := (halt c s).ctl.irq } := by
  rw [halt_of_working h, raise_ctl, (discardReads_spec _).2.1]
  rfl

theorem discardReads_of_xfer {s : State} {x : Nat} (h : readerXfer s.reader.work = some x) :
    discardReads s = setWork .idle (discard x s) := by
  unfold discardReads
  rw [h]

theorem discardReads_port (s : State) :
    (discardReads s).port.failed = s.port.failed ∧ (discardReads s).port.outbox = s.port.outbox := by
  unfold discardReads
  split
  next x _ =>
    obtain ⟨g, e⟩ := discard_spec x s
    rw [e]
    exact ⟨rfl, rfl⟩
  next => exact ⟨rfl, rfl⟩

/-- A halt adds to the outbox alone of what the port shows to the host. -/
theorem halt_port_of_working {s : State} (h : working s = true) (c : HaltCause) :
    (halt c s).port.failed = s.port.failed ∧ ∃ tail, (halt c s).port.outbox = s.port.outbox ++ tail := by
  rw [halt_of_working h]
  obtain ⟨hf, ho⟩ := discardReads_port (s.withCtl { s.ctl with engine := .halted, cause := c })
  obtain ⟨tail, e⟩ := raise_port_adds .engineHalted (discardReads (s.withCtl { s.ctl with engine := .halted, cause := c }))
  rw [e]
  exact ⟨hf, tail, congrArg (· ++ tail) ho⟩

/-- A halt throws away the read in flight. -/
theorem halt_of_read {s : State} {x : Nat} (h : working s = true) (hx : readerXfer s.reader.work = some x)
    (c : HaltCause) :
    (halt c s).reader = { s.reader with work := .idle } ∧ ∃ g tail, (halt c s).port =
      { s.port with transfers := s.port.transfers.filter (fun t => decide (t.id ≠ x)), grant := g,
                    outbox := s.port.outbox ++ tail } := by
  have hx1 : readerXfer (s.withCtl { s.ctl with engine := .halted, cause := c }).reader.work = some x := hx
  obtain ⟨g, hg⟩ := discard_spec x (s.withCtl { s.ctl with engine := .halted, cause := c })
  rw [halt_of_working h, discardReads_of_xfer hx1, hg]
  refine ⟨raise_reader _ _, g, ?_⟩
  exact raise_port_adds .engineHalted _

theorem execRecordReadFailed_of_failed {s : State} {x : Nat} (hx : readerXfer s.reader.work = some x)
    (hf : transferFailed s.port x = true) (hw : working s = true) :
    execRecordReadFailed s = .next (halt .recordRead s) := by
  unfold execRecordReadFailed
  simp only [hx, hf, hw, Bool.and_self, if_true]

/-- The state after the oldest failed unit's writes have been posted in its place. -/
def reportedUnit (issued : Nat) (f : FailedUnit) (fs : List FailedUnit) (s : State) : State :=
  s.withPort (postAt f.place (f.unit.writes.take (min issued (f.unit.writes.length - 1))) { s.port with failed := fs })

theorem execWritebackUnitFailed_of_failed {s : State} {f : FailedUnit} {fs : List FailedUnit} (h : s.port.failed = f :: fs)
    (issued : Nat) :
    execWritebackUnitFailed issued s = .next
      (if working s then halt .writeback (reportedUnit issued f fs s)
       else if frozen s then raise .writebackFailed (reportedUnit issued f fs s) else reportedUnit issued f fs s) := by
  unfold execWritebackUnitFailed
  simp only [h]
  show (if working s = true then _ else if frozen s = true then _ else _) = _
  by_cases hw : working s = true
  · rw [if_pos hw, if_pos hw]; rfl
  · rw [if_neg hw, if_neg hw]
    by_cases hf : frozen s = true
    · rw [if_pos hf, if_pos hf]; rfl
    · rw [if_neg hf, if_neg hf]; rfl

theorem working_iff (s : State) :
    working s = true ↔ s.ctl.engine = .running ∨ s.ctl.engine = .suspended ∨ s.ctl.engine = .draining := by
  unfold working
  cases s.ctl.engine <;> simp

theorem frozen_iff (s : State) : frozen s = true ↔ s.ctl.engine = .halted ∨ s.ctl.engine = .aborting := by
  unfold frozen
  cases s.ctl.engine <;> simp

/-- Settles O37, by the halt and by the place of a failed unit in the outbox. -/
theorem failuresHaltTheEngine : Obligations.FailuresHaltTheEngine := by
  refine ⟨fun s x hx hf hw => ?_, fun s f fs n hfailed => ?_⟩
  · obtain ⟨hreader, g, tail, hport⟩ := halt_of_read hw hx .recordRead
    refine ⟨_, execRecordReadFailed_of_failed hx hf hw, halt_ctl_of_working hw _, ?_, ?_, ?_, halt_onlyChanges _ s⟩
    · exact hreader
    · rw [hport]
    · rw [hport]
  · intro issued
    have hport : OnlyChanges [.ctl, .reader, .port] s (reportedUnit n f fs s) :=
      (withPort_onlyChanges s _).mono (by decide)
    have houtbox : (reportedUnit n f fs s).port.outbox =
        s.port.outbox.take f.place ++ issued ++ s.port.outbox.drop f.place := rfl
    refine ⟨_, execWritebackUnitFailed_of_failed hfailed n, ?_⟩
    by_cases hw : working s = true
    · have hw1 : working (reportedUnit n f fs s) = true := hw
      rw [if_pos hw]
      obtain ⟨hf, tail, ho⟩ := halt_port_of_working hw1 .writeback
      have hctl := halt_ctl_of_working hw1 .writeback
      refine ⟨hf, ⟨tail, by rw [ho, houtbox]⟩, hport.trans_same (halt_onlyChanges _ _), fun _ => ?_, fun hfr => ?_⟩
      · rw [hctl]; exact ⟨rfl, rfl, rfl⟩
      · rw [working_eq_false_of_frozen ((frozen_iff s).2 hfr)] at hw
        cases hw
    · rw [if_neg hw]
      by_cases hfr : frozen s = true
      · rw [if_pos hfr]
        obtain ⟨tail, e⟩ := raise_port_adds .writebackFailed (reportedUnit n f fs s)
        refine ⟨by rw [e]; rfl, ⟨tail, by rw [e, houtbox]⟩,
          (hport.trans (raise_onlyChanges _ _)).mono (by decide), fun k => absurd k hw, fun _ => ⟨raise_reader _ _, ?_⟩⟩
        rw [raise_ctl]
        rfl
      · rw [if_neg hfr]
        exact ⟨rfl, ⟨[], by rw [houtbox, List.append_nil]⟩, hport, fun k => absurd k hw,
          fun k => absurd ((frozen_iff s).2 k) hfr⟩

end Sys2Proof.Machine

/-! PROOFS. The Memory Port: completions, timeouts, and how reads are cut and issued (2.8). -/

namespace Sys2Proof.Machine

/-! ## Completions and timeouts -/

theorem failTransfer_spec (x : Nat) (p : MemoryPort) :
    ∃ g, failTransfer x p =
      { p with transfers := p.transfers.map (fun y => if y.id = x then { y with failed := true, todo := [] } else y)
               grant := g } :=
  freeGrant_spec _

/-- Settles O47, by the state of the completed tag. -/
theorem readCompletions : Obligations.ReadCompletions := by
  intro s tag data
  constructor
  · intro h ok
    show execReadCompletion tag ok data s = _
    unfold execReadCompletion
    rcases h with h | ⟨e, h⟩ <;> rw [h]
  · intro x i a len got issued htag all freed
    have hexec : ∀ ok, exec (.readCompletion tag ok data) s =
        if ok = true then
          if len ≤ all.length then .next (pump (s.withPort (completeRequest x i all (setTag tag .free s.port))))
          else .next (s.withPort (setTag tag (.request x i a len all issued) s.port))
        else .next (pump (s.withPort (failTransfer x (setTag tag .free s.port)))) := by
      intro ok
      show execReadCompletion tag ok data s = _
      unfold execReadCompletion
      rw [htag]
    refine ⟨fun h => ?_, fun h => ?_, ?_⟩
    · rw [hexec, if_pos rfl, if_neg (by omega)]
      rfl
    · rw [hexec, if_pos rfl, if_pos h]
      rfl
    · obtain ⟨g, hg⟩ := failTransfer_spec x (setTag tag .free s.port)
      refine ⟨s.withPort (failTransfer x (setTag tag .free s.port)), by rw [hexec, if_neg Bool.false_ne_true], ?_⟩
      rw [hg]
      exact ⟨rfl, withPort_onlyChanges s _, rfl, rfl, rfl, rfl⟩

/-- Settles O48, by the state of the tag whose time has come. -/
theorem timeoutsAndLinkState : Obligations.TimeoutsAndLinkState := by
  refine ⟨fun s tag x i a len got issued htag => ?_, fun s tag ends htag => ?_, fun s => ⟨rfl, rfl⟩⟩
  · obtain ⟨g, hg⟩ := failTransfer_spec x
      (setTag tag (.hold ((advanceTo (issued + 5000) s).tick + 50000)) (advanceTo (issued + 5000) s).port)
    have hexec : exec (.readRequestTimeout tag) s = .next ((advanceTo (issued + 5000) s).withPort
        (failTransfer x
          (setTag tag (.hold ((advanceTo (issued + 5000) s).tick + 50000)) (advanceTo (issued + 5000) s).port))) := by
      show execReadRequestTimeout tag s = _
      unfold execReadRequestTimeout
      rw [htag]
      rfl
    refine ⟨_, hexec, ?_⟩
    rw [hg]
    refine ⟨rfl, rfl, rfl, rfl, rfl, ?_⟩
    exact ((withTick_onlyChanges s _).trans (withPort_onlyChanges _ _)).mono (by decide)
  · show execTagHoldExpiry tag s = _
    unfold execTagHoldExpiry
    rw [htag]
    rfl

/-! ## A read cut into requests (R39) -/

/-- The requests of a read of at most `n` bytes cover it in address order, each as long as page and request allow. -/
theorem cutRead_covers (n : Nat) (a : Addr) (len : Nat) (h : len ≤ n) :
    ((cutRead n a len).map Prod.snd).sum = len ∧
    ∀ before r after, cutRead n a len = before ++ r :: after →
      r.1 = a + BitVec.ofNat 64 (before.map Prod.snd).sum ∧ 1 ≤ r.2 ∧ r.2 ≤ 256 ∧
      r.1.toNat % 4096 + r.2 ≤ 4096 ∧ (r.2 = 256 ∨ r.1.toNat % 4096 + r.2 = 4096 ∨ after = []) := by
  induction n generalizing a len with
  | zero => exact ⟨by simp [cutRead]; omega, fun before r after e => by simp [cutRead] at e⟩
  | succ n ih =>
    by_cases hlen : len = 0
    · subst hlen
      exact ⟨by simp [cutRead], fun before r after e => by simp [cutRead] at e⟩
    have hcut : cutRead (n + 1) a len =
        (a, min len (min 256 (4096 - a.toNat % 4096))) ::
          cutRead n (addrPlus a (min len (min 256 (4096 - a.toNat % 4096))))
            (len - min len (min 256 (4096 - a.toNat % 4096))) := if_neg hlen
    generalize hm : min len (min 256 (4096 - a.toNat % 4096)) = m at hcut
    have hpage : a.toNat % 4096 < 4096 := Nat.mod_lt _ (by omega)
    obtain ⟨hsum, hreq⟩ := ih (addrPlus a m) (len - m) (by omega)
    rw [hcut]
    refine ⟨by rw [List.map_cons, List.sum_cons, hsum]; omega, fun before r after e => ?_⟩
    cases before with
    | nil =>
      obtain ⟨rfl, rfl⟩ := List.cons.inj e
      refine ⟨by simp, by dsimp only; omega, by dsimp only; omega, by dsimp only; omega, ?_⟩
      by_cases hall : m = len
      · have hrest : cutRead n (addrPlus a m) (len - m) = [] := by
          rw [hall, Nat.sub_self]
          cases n <;> rfl
        exact .inr (.inr hrest)
      · dsimp only
        omega
    | cons b before =>
      obtain ⟨hb, htail⟩ := List.cons.inj e
      subst hb
      obtain ⟨haddr, hrest⟩ := hreq before r after htail
      refine ⟨?_, hrest⟩
      rw [haddr, addrPlus, List.map_cons, List.sum_cons, BitVec.ofNat_add, BitVec.add_assoc]

/-! ## Requests issued (R39, R40) -/

theorem tagFree_setTag (g g' : TagId) (x : TagState) (p : MemoryPort) :
    tagFree (setTag g x p) g' = if g' = g then decide (x = .free) else tagFree p g' := by
  unfold tagFree setTag
  by_cases h : g' = g
  · subst h; simp
  · have hne : g.val ≠ g'.val := fun e => h (Fin.ext e.symm)
    simp [h, Vector.getElem_set_ne, hne]

/-- A request that takes a free tag leaves one fewer. -/
theorem freeTags_setTag {g : TagId} {p : MemoryPort} (h : tagFree p g = true) (x : TagState) (hx : x ≠ .free) :
    freeTags (setTag g x p) + 1 = freeTags p := by
  have hfilter : allTags.filter (tagFree (setTag g x p)) = (allTags.filter (tagFree p)).erase g := by
    have hnodup : (allTags.filter (tagFree p)).Nodup := (List.nodup_finRange _).filter _
    rw [hnodup.erase_eq_filter, List.filter_filter]
    refine List.filter_congr fun g' _ => ?_
    rw [tagFree_setTag]
    by_cases hg : g' = g <;> simp [hg, hx]
  have hmem : g ∈ allTags.filter (tagFree p) := by simp [allTags, h]
  have hlen := List.length_erase_add_one hmem
  rw [← hfilter] at hlen
  exact hlen

theorem tagFree_of_nextTag {p : MemoryPort} {g : TagId} (h : nextTag p = some g) : tagFree p g = true := List.find?_some h

theorem exists_nextTag {p : MemoryPort} (h : 0 < freeTags p) : ∃ g, nextTag p = some g := by
  obtain ⟨g, hg⟩ := List.exists_mem_of_length_pos h
  obtain ⟨hmem, hfree⟩ := List.mem_filter.1 hg
  cases hn : nextTag p with
  | some g => exact ⟨g, rfl⟩
  | none => exact absurd hfree (by simpa using List.find?_eq_none.1 hn g hmem)

/-- `n` requests of `rs` have been issued for transfer `t` from port `p`, giving `r`: each on a tag that was free, for
as long as the rule `may` of its source allowed. -/
structure Issued (may : Nat → Nat → Bool) (now : Nat) (rs : List (Addr × Nat)) (t : Transfer) (p : MemoryPort)
    (r : Transfer × MemoryPort) (n : Nat) : Prop where
  le : n ≤ rs.length
  transfer : r.1 = { t with todo := rs.drop n, inFlight := t.inFlight + n, nextIndex := t.nextIndex + n }
  free : freeTags r.2 + n = freeTags p
  stops : rs.drop n = [] ∨ may (t.inFlight + n) (freeTags r.2) = false
  allowed : n = 0 ∨ may (t.inFlight + n - 1) (freeTags r.2 + 1) = true
  taken : ∀ g, tagFree p g = false → r.2.tags[g] = p.tags[g]
  requests : ∀ i q, (rs.take n)[i]? = some q → ∃ g : TagId, tagFree p g = true ∧
    r.2.tags[g] = .request t.id (t.nextIndex + i) q.1 q.2 [] now

theorem issueRequests_issued (may : Nat → Nat → Bool) (hmay : ∀ k f, may k f = true → 0 < f) (now : Nat)
    (rs : List (Addr × Nat)) (t : Transfer) (p : MemoryPort) (hup : p.linkUp = true) :
    ∃ n, Issued may now rs t p (issueRequests may now rs t p) n := by
  induction rs generalizing t p with
  | nil => exact ⟨0, Nat.le_refl _, rfl, rfl, .inl rfl, .inl rfl, fun _ _ => rfl, nofun⟩
  | cons q rs ih =>
    unfold issueRequests
    by_cases h : may t.inFlight (freeTags p) = true
    · obtain ⟨g, hg⟩ := exists_nextTag (hmay _ _ h)
      have hfree := tagFree_of_nextTag hg
      rw [if_pos h, hg]
      dsimp only
      rw [if_pos hup]
      generalize hp1 : setTag g (.request t.id t.nextIndex q.1 q.2 [] now) p = p1
      have hcount : freeTags p1 + 1 = freeTags p := by rw [← hp1]; exact freeTags_setTag hfree _ nofun
      have htag : ∀ g', tagFree p1 g' = if g' = g then false else tagFree p g' := by
        intro g'
        rw [← hp1, tagFree_setTag]
        rfl
      have hkept : p1.tags[g] = .request t.id t.nextIndex q.1 q.2 [] now := by rw [← hp1]; simp [setTag]
      have hother : ∀ g', g' ≠ g → p1.tags[g'] = p.tags[g'] := by
        intro g' hne
        have hval : g.val ≠ g'.val := fun e => hne (Fin.ext e.symm)
        rw [← hp1]
        simp [setTag, Vector.getElem_set_ne, hval]
      obtain ⟨n, k⟩ := ih { t with inFlight := t.inFlight + 1, nextIndex := t.nextIndex + 1 } p1 (by rw [← hp1]; exact hup)
      refine ⟨n + 1, Nat.succ_le_succ k.le, ?_, ?_, ?_, ?_, ?_, ?_⟩
      · rw [k.transfer]
        simp only [List.drop_succ_cons, Nat.add_assoc, Nat.add_comm 1 n]
      · have := k.free; omega
      · have hstops := k.stops
        simp only [Nat.add_assoc, Nat.add_comm 1 n] at hstops
        simpa only [List.drop_succ_cons] using hstops
      · refine .inr ?_
        rcases k.allowed with rfl | hk
        · have hf := k.free
          rw [show t.inFlight + (0 + 1) - 1 = t.inFlight by omega, show freeTags _ + 1 = freeTags p by omega]
          exact h
        · rw [show t.inFlight + (n + 1) - 1 = t.inFlight + 1 + n - 1 by omega]
          exact hk
      · intro g' hg'
        have hne : g' ≠ g := by rintro rfl; rw [hfree] at hg'; cases hg'
        rw [k.taken g' (by rw [htag, if_neg hne, hg']), hother g' hne]
      · intro i r hr
        cases i with
        | zero =>
          cases hr
          refine ⟨g, hfree, ?_⟩
          rw [k.taken g (by rw [htag, if_pos rfl]), hkept]
          rfl
        | succ i =>
          obtain ⟨g', hg', he⟩ := k.requests i r hr
          have hne : g' ≠ g := by rintro rfl; rw [htag, if_pos rfl] at hg'; cases hg'
          rw [htag, if_neg hne] at hg'
          refine ⟨g', hg', ?_⟩
          rw [he]
          simp only [Nat.add_assoc, Nat.add_comm 1 i]
    · rw [if_neg h]
      exact ⟨0, Nat.zero_le _, rfl, rfl, .inr (by simpa using h), .inl rfl, fun _ _ => rfl, by simp⟩

/-- With the link down no tag is taken, and the first request that could be issued fails its transfer. -/
theorem issueRequests_of_down (may : Nat → Nat → Bool) (now : Nat) (rs : List (Addr × Nat)) (t : Transfer)
    (p : MemoryPort) (hdown : p.linkUp = false) :
    (issueRequests may now rs t p).2 = p ∧
    (rs ≠ [] → may t.inFlight (freeTags p) = true → 0 < freeTags p →
      (issueRequests may now rs t p).1 = { t with todo := [], failed := true }) := by
  cases rs with
  | nil => exact ⟨rfl, fun h => absurd rfl h⟩
  | cons q rs =>
    unfold issueRequests
    by_cases h : may t.inFlight (freeTags p) = true
    · rw [if_pos h]
      cases hn : nextTag p with
      | none =>
        refine ⟨rfl, fun _ _ hfree => ?_⟩
        obtain ⟨g, hg⟩ := exists_nextTag hfree
        rw [hn] at hg
        cases hg
      | some g =>
        dsimp only
        rw [hdown]
        exact ⟨rfl, fun _ _ _ => rfl⟩
    · rw [if_neg h]
      exact ⟨rfl, fun _ k => absurd k h⟩

theorem issueRequests_id (may : Nat → Nat → Bool) (now : Nat) (rs : List (Addr × Nat)) (t : Transfer) (p : MemoryPort) :
    (issueRequests may now rs t p).1.id = t.id ∧ (issueRequests may now rs t p).1.fetch = t.fetch := by
  induction rs generalizing t p with
  | nil => exact ⟨rfl, rfl⟩
  | cons q rs ih =>
    unfold issueRequests
    split
    · split
      · split
        · exact ih _ _
        · exact ⟨rfl, rfl⟩
      · exact ⟨rfl, rfl⟩
    · exact ⟨rfl, rfl⟩

/-! ## One transfer's requests go out -/

theorem findTransfer_put_self (l : List Transfer) (u : Transfer) (h : ∃ w ∈ l, w.id = u.id) :
    (l.map fun w => if w.id = u.id then u else w).find? (fun w => w.id == u.id) = some u := by
  induction l with
  | nil => obtain ⟨w, hw, -⟩ := h; cases hw
  | cons w l ih =>
    rw [List.map_cons]
    by_cases hw : w.id = u.id
    · rw [if_pos hw]
      exact List.find?_cons_of_pos (by simp)
    · obtain ⟨v, hv, he⟩ := h
      have htail : ∃ v ∈ l, v.id = u.id := by
        rcases List.mem_cons.1 hv with rfl | hv
        · exact absurd he hw
        · exact ⟨v, hv, he⟩
      rw [if_neg hw, List.find?_cons_of_neg (by simpa using hw)]
      exact ih htail

theorem findTransfer_put_other (l : List Transfer) (u : Transfer) (x : Nat) (h : u.id ≠ x) :
    (l.map fun w => if w.id = u.id then u else w).find? (fun w => w.id == x) = l.find? fun w => w.id == x := by
  induction l with
  | nil => rfl
  | cons w l ih =>
    rw [List.map_cons]
    by_cases hw : w.id = u.id
    · rw [if_pos hw, List.find?_cons_of_neg (by simpa using h), List.find?_cons_of_neg (by simpa [hw] using h), ih]
    · rw [if_neg hw]
      by_cases hx : w.id = x
      · rw [List.find?_cons_of_pos (by simpa using hx), List.find?_cons_of_pos (by simpa using hx)]
      · rw [List.find?_cons_of_neg (by simpa using hx), List.find?_cons_of_neg (by simpa using hx), ih]

/-- What issuing requests never does: take a tag that is not free, or list a transfer of a new number or source. -/
structure Issues (p q : MemoryPort) : Prop where
  taken : ∀ g, tagFree p g = false → q.tags[g] = p.tags[g]
  free : freeTags q ≤ freeTags p
  listed : ∀ y ∈ q.transfers, ∃ z ∈ p.transfers, y.id = z.id ∧ y.fetch = z.fetch
  grant : q.grant = p.grant
  linkUp : q.linkUp = p.linkUp
  down : p.linkUp = false → q.tags = p.tags

theorem Issues.refl (p : MemoryPort) : Issues p p :=
  ⟨fun _ _ => rfl, Nat.le_refl _, fun y hy => ⟨y, hy, rfl, rfl⟩, rfl, rfl, fun _ => rfl⟩

theorem tagFree_congr {p q : MemoryPort} {g : TagId} (h : q.tags[g] = p.tags[g]) : tagFree q g = tagFree p g := by
  rw [tagFree, tagFree, h]

theorem freeTags_congr {p q : MemoryPort} (h : q.tags = p.tags) : freeTags q = freeTags p := by
  have hfree : tagFree q = tagFree p := funext fun g => tagFree_congr (by rw [h])
  rw [freeTags, freeTags, hfree]

/-- A tag that is free afterwards was free before. -/
theorem Issues.free_before {p q : MemoryPort} (h : Issues p q) {g : TagId} (hg : tagFree q g = true) :
    tagFree p g = true := by
  cases hp : tagFree p g with
  | true => rfl
  | false => rw [tagFree_congr (h.taken g hp), hp] at hg; cases hg

theorem Issues.trans {p q r : MemoryPort} (h : Issues p q) (k : Issues q r) : Issues p r where
  taken g hg := (k.taken g ((tagFree_congr (h.taken g hg)).trans hg)).trans (h.taken g hg)
  free := k.free.trans h.free
  listed y hy := by
    obtain ⟨z, hz, hid, hfetch⟩ := k.listed y hy
    obtain ⟨w, hw, wid, wfetch⟩ := h.listed z hz
    exact ⟨w, hw, hid.trans wid, hfetch.trans wfetch⟩
  grant := k.grant.trans h.grant
  linkUp := k.linkUp.trans h.linkUp
  down hd := (k.down (h.linkUp.trans hd)).trans (h.down hd)

theorem pumpTransfer_issues (may : Nat → Nat → Bool) (hmay : ∀ k f, may k f = true → 0 < f) (now : Nat) {t : Transfer}
    {p : MemoryPort} (ht : t ∈ p.transfers) : Issues p (pumpTransfer may now t p) := by
  obtain ⟨tags, hport⟩ := issueRequests_port may now t.todo t p
  obtain ⟨hid, hfetch⟩ := issueRequests_id may now t.todo t p
  have hlisted : ∀ y ∈ (pumpTransfer may now t p).transfers, ∃ z ∈ p.transfers, y.id = z.id ∧ y.fetch = z.fetch := by
    intro y hy
    have hy' : y ∈ p.transfers.map fun u =>
        if u.id = (issueRequests may now t.todo t p).1.id then (issueRequests may now t.todo t p).1 else u := by
      have htransfers : (issueRequests may now t.todo t p).2.transfers = p.transfers := by rw [hport]
      rw [← htransfers]
      exact hy
    obtain ⟨u, hu, he⟩ := List.mem_map.1 hy'
    split at he
    · subst he; exact ⟨t, ht, hid, hfetch⟩
    · subst he; exact ⟨u, hu, rfl, rfl⟩
  have hgrant : (pumpTransfer may now t p).grant = p.grant := by
    show (issueRequests may now t.todo t p).2.grant = _
    rw [hport]
  have hlink : (pumpTransfer may now t p).linkUp = p.linkUp := by
    show (issueRequests may now t.todo t p).2.linkUp = _
    rw [hport]
  cases hup : p.linkUp with
  | true =>
    obtain ⟨n, k⟩ := issueRequests_issued may hmay now t.todo t p hup
    exact ⟨k.taken, by have hfree := k.free; show freeTags (issueRequests may now t.todo t p).2 ≤ _; omega, hlisted, hgrant,
      hlink, fun hd => by rw [hup] at hd; cases hd⟩
  | false =>
    have hsame : (pumpTransfer may now t p).tags = p.tags :=
      congrArg (fun r => r.tags) (show (issueRequests may now t.todo t p).2 = p from
        (issueRequests_of_down may now t.todo t p hup).1)
    exact ⟨fun g _ => by rw [hsame], Nat.le_of_eq (freeTags_congr hsame), hlisted, hgrant,
      hlink, fun _ => hsame⟩

theorem findTransfer_pumpTransfer_self (may : Nat → Nat → Bool) (now : Nat) {t : Transfer} {p : MemoryPort}
    (ht : t ∈ p.transfers) :
    findTransfer (pumpTransfer may now t p) t.id = some (issueRequests may now t.todo t p).1 := by
  obtain ⟨tags, hport⟩ := issueRequests_port may now t.todo t p
  obtain ⟨hid, -⟩ := issueRequests_id may now t.todo t p
  have hfind := findTransfer_put_self p.transfers (issueRequests may now t.todo t p).1 ⟨t, ht, hid.symm⟩
  rw [hid] at hfind
  have htransfers : (issueRequests may now t.todo t p).2.transfers = p.transfers := by rw [hport]
  unfold findTransfer pumpTransfer putTransfer
  dsimp only
  rw [htransfers, hid]
  exact hfind

theorem findTransfer_pumpTransfer_other (may : Nat → Nat → Bool) (now : Nat) {t : Transfer} (p : MemoryPort) {x : Nat}
    (hx : t.id ≠ x) : findTransfer (pumpTransfer may now t p) x = findTransfer p x := by
  obtain ⟨tags, hport⟩ := issueRequests_port may now t.todo t p
  obtain ⟨hid, -⟩ := issueRequests_id may now t.todo t p
  have htransfers : (issueRequests may now t.todo t p).2.transfers = p.transfers := by rw [hport]
  unfold findTransfer pumpTransfer putTransfer
  dsimp only
  rw [htransfers]
  exact findTransfer_put_other _ _ _ (by rwa [hid])

/-! ## The port issues what it can -/

theorem recordMay_pos (k f : Nat) (h : recordMay k f = true) : 0 < f :=
  of_decide_eq_true (Bool.and_eq_true_iff.1 h).2

theorem fetchMay_pos (k f : Nat) (h : fetchMay k f = true) : 0 < f := by
  have h3 : 3 ≤ f := of_decide_eq_true h
  omega

theorem findTransfer_id {p : MemoryPort} {x : Nat} {t : Transfer} (h : findTransfer p x = some t) : t.id = x := by
  simpa using List.find?_some h

theorem pumpRecord_issues (now : Nat) (p : MemoryPort) : Issues p (pumpRecord now p) := by
  unfold pumpRecord
  split
  next t ht => exact pumpTransfer_issues recordMay recordMay_pos now (List.mem_of_find?_eq_some ht)
  next => exact .refl p

theorem pumpFetch_issues (now : Nat) (p : MemoryPort) : Issues p (pumpFetch now p) := by
  unfold pumpFetch
  split
  next t ht =>
    obtain ⟨x, -, hx⟩ := Option.bind_eq_some_iff.1 ht
    exact pumpTransfer_issues fetchMay fetchMay_pos now (List.mem_of_find?_eq_some hx)
  next => exact .refl p

/-- A transfer that is no record transfer's is left alone by the List Reader's requests. -/
theorem findTransfer_pumpRecord (now : Nat) (p : MemoryPort) {x : Nat}
    (h : ∀ z ∈ p.transfers, z.fetch = none → z.id ≠ x) : findTransfer (pumpRecord now p) x = findTransfer p x := by
  unfold pumpRecord
  split
  next t ht =>
    have hnone := List.find?_some ht
    exact findTransfer_pumpTransfer_other _ _ p (h t (List.mem_of_find?_eq_some ht) (Option.isNone_iff_eq_none.1 hnone))
  next => rfl

/-- A transfer that the read engine does not hold is left alone by the fetch requests. -/
theorem findTransfer_pumpFetch (now : Nat) (p : MemoryPort) {x : Nat} (h : p.grant ≠ some x) :
    findTransfer (pumpFetch now p) x = findTransfer p x := by
  unfold pumpFetch
  split
  next t ht =>
    obtain ⟨y, hy, hfind⟩ := Option.bind_eq_some_iff.1 ht
    exact findTransfer_pumpTransfer_other _ _ p fun e => h (by rw [hy, ← e, findTransfer_id hfind])
  next => rfl

theorem pump_port (s : State) : ∃ g, (pump s).port =
    { pumpFetch s.tick (pumpRecord s.tick s.port) with grant := g } := by
  obtain ⟨g, hg⟩ := freeGrant_spec (pumpFetch s.tick (pumpRecord s.tick s.port))
  exact ⟨g, hg⟩

/-- What the port lists, holds and takes, whichever requests go out. -/
theorem pump_issues (s : State) :
    (∀ y ∈ (pump s).port.transfers, ∃ z ∈ s.port.transfers, y.id = z.id ∧ y.fetch = z.fetch) ∧
    ∀ g : TagId, s.port.tags[g] ≠ .free → (pump s).port.tags[g] = s.port.tags[g] := by
  have h := (pumpRecord_issues s.tick s.port).trans (pumpFetch_issues s.tick (pumpRecord s.tick s.port))
  obtain ⟨g, hg⟩ := pump_port s
  rw [hg]
  exact ⟨h.listed, fun g' hg' => h.taken g' (decide_eq_false hg')⟩

theorem pump_onlyChanges (s : State) : OnlyChanges [.port] s (pump s) := withPort_onlyChanges _ _

/-- The List Reader's transfer, when it is the port's first and the read engine does not hold it. -/
theorem pump_of_record {s : State} {y : Transfer} (hfind : s.port.transfers.find? (fun x => x.fetch.isNone) = some y)
    (hgrant : s.port.grant ≠ some y.id) :
    findTransfer (pump s).port y.id = some (issueRequests recordMay s.tick y.todo y s.port).1 ∧
    (∀ g, tagFree (issueRequests recordMay s.tick y.todo y s.port).2 g = false →
      (pump s).port.tags[g] = (issueRequests recordMay s.tick y.todo y s.port).2.tags[g]) ∧
    freeTags (pump s).port ≤ freeTags (issueRequests recordMay s.tick y.todo y s.port).2 := by
  have hpump : pumpRecord s.tick s.port = pumpTransfer recordMay s.tick y s.port := by
    unfold pumpRecord
    rw [hfind]
  have hmem : y ∈ s.port.transfers := List.mem_of_find?_eq_some hfind
  have hrec := pumpRecord_issues s.tick s.port
  have hfetch := pumpFetch_issues s.tick (pumpRecord s.tick s.port)
  obtain ⟨g, hg⟩ := pump_port s
  rw [hg]
  refine ⟨?_, ?_⟩
  · show findTransfer (pumpFetch s.tick (pumpRecord s.tick s.port)) y.id = _
    rw [findTransfer_pumpFetch _ _ (by rw [hrec.grant]; exact hgrant), hpump]
    exact findTransfer_pumpTransfer_self recordMay s.tick hmem
  · rw [hpump] at hfetch ⊢
    exact ⟨hfetch.taken, hfetch.free⟩

/-- The fetch that the read engine holds, when no record transfer has its number. -/
theorem pump_of_fetch {s : State} {y : Transfer} (hgrant : s.port.grant = some y.id)
    (hfind : findTransfer s.port y.id = some y) (hrecord : ∀ x ∈ s.port.transfers, x.fetch = none → x.id ≠ y.id) :
    findTransfer (pump s).port y.id = some (issueRequests fetchMay s.tick y.todo y (pumpRecord s.tick s.port)).1 ∧
    (pump s).port.tags = (issueRequests fetchMay s.tick y.todo y (pumpRecord s.tick s.port)).2.tags := by
  have hrec := pumpRecord_issues s.tick s.port
  have hfind1 : findTransfer (pumpRecord s.tick s.port) y.id = some y :=
    (findTransfer_pumpRecord s.tick s.port hrecord).trans hfind
  have hpump : pumpFetch s.tick (pumpRecord s.tick s.port) = pumpTransfer fetchMay s.tick y (pumpRecord s.tick s.port) := by
    unfold pumpFetch
    rw [hrec.grant, hgrant, Option.bind_some, hfind1]
  obtain ⟨g, hg⟩ := pump_port s
  rw [hg, hpump]
  exact ⟨findTransfer_pumpTransfer_self fetchMay s.tick (List.mem_of_find?_eq_some hfind1), rfl⟩

theorem pump_tags_of_down {s : State} (h : s.port.linkUp = false) : (pump s).port.tags = s.port.tags := by
  obtain ⟨g, hg⟩ := pump_port s
  rw [hg]
  exact ((pumpRecord_issues s.tick s.port).trans (pumpFetch_issues s.tick (pumpRecord s.tick s.port))).down h

/-- With the link up the List Reader's transfer issues until it has two requests in flight or no tag is free. -/
theorem pump_record_up {s : State} {y : Transfer} (hup : s.port.linkUp = true)
    (hfind : s.port.transfers.find? (fun x => x.fetch.isNone) = some y) (hgrant : s.port.grant ≠ some y.id) :
    ∃ n, n ≤ y.todo.length ∧
      findTransfer (pump s).port y.id =
        some { y with todo := y.todo.drop n, inFlight := y.inFlight + n, nextIndex := y.nextIndex + n } ∧
      ((y.todo.drop n = [] ∨ 2 ≤ y.inFlight + n ∨ freeTags (pump s).port = 0) ∧ (n = 0 ∨ y.inFlight + n ≤ 2)) ∧
      ∀ i r, (y.todo.take n)[i]? = some r → ∃ g : TagId, s.port.tags[g] = .free ∧
        (pump s).port.tags[g] = .request y.id (y.nextIndex + i) r.1 r.2 [] s.tick := by
  obtain ⟨n, k⟩ := issueRequests_issued recordMay recordMay_pos s.tick y.todo y s.port hup
  obtain ⟨hself, htags, hfree⟩ := pump_of_record hfind hgrant
  refine ⟨n, k.le, hself.trans (congrArg some k.transfer), ⟨?_, ?_⟩, fun i r hr => ?_⟩
  · refine k.stops.imp_right fun hstop => ?_
    have hstop' : ¬(y.inFlight + n < 2 ∧ 0 < freeTags (issueRequests recordMay s.tick y.todo y s.port).2) := fun ⟨hflight, hfree⟩ =>
      Bool.false_ne_true (hstop.symm.trans (Bool.and_eq_true_iff.2 ⟨decide_eq_true hflight, decide_eq_true hfree⟩))
    omega
  · refine k.allowed.imp_right fun hmay => ?_
    have hlt : y.inFlight + n - 1 < 2 := of_decide_eq_true (Bool.and_eq_true_iff.1 hmay).1
    omega
  · obtain ⟨g, hg, hreq⟩ := k.requests i r hr
    refine ⟨g, of_decide_eq_true hg, ?_⟩
    rw [htags g (by rw [tagFree, hreq]; rfl), hreq]

/-- With the link up the fetch that the read engine holds issues until fewer than three tags are free. -/
theorem pump_fetch_up {s : State} {y : Transfer} (hup : s.port.linkUp = true) (hgrant : s.port.grant = some y.id)
    (hfind : findTransfer s.port y.id = some y) (hrecord : ∀ x ∈ s.port.transfers, x.fetch = none → x.id ≠ y.id) :
    ∃ n, n ≤ y.todo.length ∧
      findTransfer (pump s).port y.id =
        some { y with todo := y.todo.drop n, inFlight := y.inFlight + n, nextIndex := y.nextIndex + n } ∧
      ((y.todo.drop n = [] ∨ freeTags (pump s).port < 3) ∧ (n = 0 ∨ 2 ≤ freeTags (pump s).port)) ∧
      ∀ i r, (y.todo.take n)[i]? = some r → ∃ g : TagId, s.port.tags[g] = .free ∧
        (pump s).port.tags[g] = .request y.id (y.nextIndex + i) r.1 r.2 [] s.tick := by
  have hrec := pumpRecord_issues s.tick s.port
  obtain ⟨n, k⟩ := issueRequests_issued fetchMay fetchMay_pos s.tick y.todo y (pumpRecord s.tick s.port)
    (hrec.linkUp.trans hup)
  obtain ⟨hself, htags⟩ := pump_of_fetch hgrant hfind hrecord
  have hfree := freeTags_congr htags
  refine ⟨n, k.le, hself.trans (congrArg some k.transfer), ⟨?_, ?_⟩, fun i r hr => ?_⟩
  · refine k.stops.imp_right fun hstop => ?_
    have hstop' : ¬3 ≤ freeTags (issueRequests fetchMay s.tick y.todo y (pumpRecord s.tick s.port)).2 :=
      of_decide_eq_false hstop
    omega
  · refine k.allowed.imp_right fun hmay => ?_
    have hge : 3 ≤ freeTags (issueRequests fetchMay s.tick y.todo y (pumpRecord s.tick s.port)).2 + 1 :=
      of_decide_eq_true hmay
    omega
  · obtain ⟨g, hg, hreq⟩ := k.requests i r hr
    exact ⟨g, of_decide_eq_true (hrec.free_before hg), by rw [htags, hreq]⟩

/-- Settles O49, by the cutting of a read and the rule of each source of requests. -/
theorem readsCutIntoRequests : Obligations.ReadsCutIntoRequests := by
  refine ⟨fun a len => cutRead_covers (len + 1) a len (Nat.le_succ len), fun f a len s => ?_, fun s y => ?_⟩
  · intro t
    have hissues : ∀ u, t = pump u → u.port.tags = s.port.tags → _ := fun u hu htags => And.intro
      (hu ▸ (pump_issues u).1) (fun g hg => hu ▸ (pump_issues u).2 g (by rw [htags]; exact hg))
    obtain ⟨hlisted, htaken⟩ := hissues _ rfl rfl
    obtain ⟨tags, ts, g, ht⟩ := startTransfer_spec f a len s
    have htq : t = s.withPort { s.port with tags := tags, transfers := ts, nextXfer := s.port.nextXfer + 1, grant := g } := ht
    refine ⟨by rw [htq]; exact withPort_onlyChanges s _, by rw [htq]; rfl, by rw [htq]; rfl, by rw [htq]; rfl,
      by rw [htq]; rfl, hlisted, htaken, ?_⟩
    cases f <;> rfl
  · intro record fetch t
    refine ⟨fun hup h => ?_, fun hdown htodo h => ?_⟩
    · rcases h with hr | hf
      · obtain ⟨n, hle, hself, hrule, hreq⟩ := pump_record_up hup hr.1 hr.2
        exact ⟨n, hle, hself, fun _ => hrule, fun hf => absurd hf.1 hr.2, hreq⟩
      · obtain ⟨n, hle, hself, hrule, hreq⟩ := pump_fetch_up hup hf.1 hf.2.1 hf.2.2
        exact ⟨n, hle, hself, fun hr => absurd hf.1 hr.2, fun _ => hrule, hreq⟩
    · refine ⟨?_, pump_tags_of_down hdown⟩
      rcases h with ⟨⟨hfind, hgrant⟩, hflight, hfree⟩ | ⟨⟨hgrant, hfind, hrecord⟩, hfree⟩
      · have hmay : recordMay y.inFlight (freeTags s.port) = true :=
          Bool.and_eq_true_iff.2 ⟨decide_eq_true hflight, decide_eq_true hfree⟩
        rw [(pump_of_record hfind hgrant).1, (issueRequests_of_down _ _ _ _ _ hdown).2 htodo hmay hfree]
      · have hrec := pumpRecord_issues s.tick s.port
        have htags : freeTags (pumpRecord s.tick s.port) = freeTags s.port := freeTags_congr (hrec.down hdown)
        have hmay : fetchMay y.inFlight (freeTags (pumpRecord s.tick s.port)) = true := decide_eq_true (by rw [htags]; exact hfree)
        rw [(pump_of_fetch hgrant hfind hrecord).1,
          (issueRequests_of_down _ _ _ _ _ (hrec.linkUp.trans hdown)).2 htodo hmay (fetchMay_pos _ _ hmay)]

end Sys2Proof.Machine

/-! PROOFS. The Firing Channels' operations one by one: what a line-pass does to its channel and its band, what an
operation on one channel leaves alone, and what every place and target reads (chapters 6 and 7). -/

namespace Sys2Proof.Machine

/-! ## Places and targets read the bands' plans alone -/

theorem findBand_plan (s : State) (id : Nat) :
    (findBand s id).map BandEntry.plan = (s.win.bands.map BandEntry.plan).find? fun b => b.id == id := by
  rw [findBand, List.find?_map]
  rfl

theorem target_eq_plan (s : State) (c : ChanId) (r : LineRef) :
    target s c r = (do
      let b ← (findBand s r.band).map BandEntry.plan
      let p ← findPage s b.page
      let a ← boundAnchor p
      let o ← chanOffset s.layout c
      if b.late then none else some (a.toNat + 256 * (b.firstLine + r.line) + o)) := by
  unfold target
  cases findBand s r.band <;> rfl

theorem firstLineFrom_eq_plan (s : State) (c : ChanId) (id : Nat) :
    firstLineFrom s c id =
      ((s.win.bands.map BandEntry.plan).find? fun b => decide (id ≤ b.id) && inSequence s c b).map
        fun b => { band := b.id, line := 0 } := by
  rw [firstLineFrom, List.find?_map, Option.map_map]
  rfl

theorem lineAfter_eq_plan (s : State) (c : ChanId) (r : LineRef) :
    lineAfter s c r =
      match (findBand s r.band).map BandEntry.plan with
      | some b => if r.line + 1 < b.lines then some { r with line := r.line + 1 } else firstLineFrom s c (r.band + 1)
      | none => firstLineFrom s c (r.band + 1) := by
  unfold lineAfter
  cases findBand s r.band <;> rfl

/-- Two states in which every line has the same place and target. -/
structure SameLines (s t : State) : Prop where
  plans : t.win.bands.map BandEntry.plan = s.win.bands.map BandEntry.plan
  pages : t.win.pages = s.win.pages
  layout : t.layout = s.layout

theorem Runs.sameLines {s t : State} (h : Runs s t) : SameLines s t := ⟨h.plans, by rw [h.win], h.layout⟩

theorem SameLines.of_win {s t : State} (hw : t.win = s.win) (hl : t.layout = s.layout) : SameLines s t :=
  ⟨by rw [hw], by rw [hw], hl⟩

theorem SameLines.findBand {s t : State} (h : SameLines s t) (id : Nat) :
    (findBand t id).map BandEntry.plan = (Machine.findBand s id).map BandEntry.plan := by
  rw [findBand_plan, findBand_plan, h.plans]

theorem SameLines.target {s t : State} (h : SameLines s t) (c : ChanId) (r : LineRef) : target t c r = target s c r := by
  have hpage : ∀ id, findPage t id = findPage s id := fun id => by rw [findPage, findPage, h.pages]
  rw [target_eq_plan, target_eq_plan, h.findBand, h.layout]
  simp only [hpage]

theorem SameLines.firstLineFrom {s t : State} (h : SameLines s t) (c : ChanId) (id : Nat) :
    firstLineFrom t c id = firstLineFrom s c id := by
  rw [firstLineFrom_eq_plan, firstLineFrom_eq_plan, h.plans]
  simp only [inSequence, h.layout]

theorem SameLines.lineAfter {s t : State} (h : SameLines s t) (c : ChanId) (r : LineRef) :
    lineAfter t c r = lineAfter s c r := by
  rw [lineAfter_eq_plan, lineAfter_eq_plan, h.findBand, h.firstLineFrom]

/-! ## Compose places -/

/-- Of a channel a move of the compose place changes that place alone. -/
theorem adjustCompose_chan_self (c : ChanId) (s : State) :
    ∃ p, (adjustCompose c s).chan c = { s.chan c with compose := p } ∧
      ((s.head (headOf c)).returnBand = none → p = (s.chan c).compose) := by
  unfold adjustCompose
  split
  next r p hr hp =>
    split
    · exact ⟨_, State.setChan_chan_self _ _ _, fun hn => by rw [hr] at hn; cases hn⟩
    · exact ⟨_, rfl, fun _ => rfl⟩
  next => exact ⟨_, rfl, fun _ => rfl⟩

theorem adjustCompose_chan_ne (c : ChanId) (s : State) {d : ChanId} (h : d ≠ c) :
    (adjustCompose c s).chan d = s.chan d := by
  unfold adjustCompose
  split
  · split
    · exact State.setChan_chan_ne _ _ _ _ h
    · rfl
  · rfl

/-! ## Line-passes -/

theorem linePass_of_next {s : State} {c : ChanId} {r : LineRef} (h : (s.chan c).next = some r) (o : PassOutcome) :
    linePass c o s = releasePins (adjustCompose c
      ((mapBand r.band (reportTo o) s).setChan c (passedChannel r (lineAfter s c r) (s.chan c)))) := by
  unfold linePass
  rw [h]

/-- The channel after its line has passed, but for its compose place. -/
theorem linePass_chan_self {s : State} {c : ChanId} {r : LineRef} (h : (s.chan c).next = some r) (o : PassOutcome) :
    ∃ p, (linePass c o s).chan c = { passedChannel r (lineAfter s c r) (s.chan c) with compose := p } := by
  rw [linePass_of_next h]
  obtain ⟨p, hp, -⟩ := adjustCompose_chan_self c
    ((mapBand r.band (reportTo o) s).setChan c (passedChannel r (lineAfter s c r) (s.chan c)))
  rw [State.setChan_chan_self] at hp
  exact ⟨p, hp⟩

theorem linePass_chan_ne (c : ChanId) (o : PassOutcome) (s : State) {d : ChanId} (h : d ≠ c) :
    (linePass c o s).chan d = s.chan d := by
  cases hn : (s.chan c).next with
  | none => unfold linePass; rw [hn]
  | some r =>
    rw [linePass_of_next hn]
    exact (adjustCompose_chan_ne c _ h).trans (State.setChan_chan_ne _ _ _ _ h)

theorem linePass_win {s : State} {c : ChanId} {r : LineRef} (h : (s.chan c).next = some r) (o : PassOutcome) :
    (linePass c o s).win =
      { s.win with bands := s.win.bands.map fun b => if b.id = r.band then reportTo o b else b } := by
  rw [linePass_of_next h]
  exact (adjustCompose_onlyChanges c _) .win (by decide)

theorem linePass_heads (c : ChanId) (o : PassOutcome) (s : State) : (linePass c o s).heads = s.heads :=
  linePass_onlyChanges c o s .heads (by decide)

theorem linePass_ctl (c : ChanId) (o : PassOutcome) (s : State) : (linePass c o s).ctl = s.ctl :=
  linePass_onlyChanges c o s .ctl (by decide)

/-! ## Frames that are at most withdrawn -/

/-- A frame that stands after an operation stood before it, with the same body, and keeps a withdrawn mark. -/
def MarkedFrom (x y : Option Frame) : Prop :=
  ∀ f, y = some f → ∃ f0, x = some f0 ∧ f.body = f0.body ∧ (f0.withdrawn = true → f.withdrawn = true)

theorem MarkedFrom.refl (x : Option Frame) : MarkedFrom x x := fun f hf => ⟨f, hf, rfl, id⟩

theorem MarkedFrom.trans {x y z : Option Frame} (h : MarkedFrom x y) (k : MarkedFrom y z) : MarkedFrom x z := by
  intro f hf
  obtain ⟨g, hg, hbody, hmark⟩ := k f hf
  obtain ⟨e, he, hbody', hmark'⟩ := h g hg
  exact ⟨e, he, hbody.trans hbody', fun hm => hmark (hmark' hm)⟩

theorem MarkedFrom.eq_none {y : Option Frame} (h : MarkedFrom none y) : y = none := by
  cases y with
  | none => rfl
  | some f =>
    obtain ⟨f0, h0, -⟩ := h f rfl
    cases h0

theorem markWithdrawn_body (r : Row) (f : Frame) : (markWithdrawn r f).body = f.body := by
  unfold markWithdrawn
  split
  · split <;> rfl
  · rfl
  · rfl

theorem markWithdrawn_keeps (r : Row) {f : Frame} (h : f.withdrawn = true) : (markWithdrawn r f).withdrawn = true := by
  unfold markWithdrawn
  split
  · split
    · rfl
    · exact h
  · exact h
  · exact h

theorem markedFrom_markWithdrawn (r : Row) (x : Option Frame) : MarkedFrom x (x.map (markWithdrawn r)) := by
  intro f hf
  obtain ⟨f0, h0, rfl⟩ := Option.map_eq_some_iff.1 hf
  exact ⟨f0, h0, markWithdrawn_body r f0, markWithdrawn_keeps r⟩

/-! ## One channel's work -/

/-- From `s` to `t` channel `c` alone has worked: no other channel and no other head has changed, of its own head
only what is queued, in flight or to be sent again, and nothing has been composed or shipped. -/
structure OwnWork (c : ChanId) (s t : State) : Prop where
  runs : Runs s t
  others : ∀ d, d ≠ c → t.chan d = s.chan d
  otherHeads : ∀ g, g ≠ headOf c → t.head g = s.head g
  head : ∃ q f a, t.head (headOf c) = { s.head (headOf c) with queue := q, frame := f, again := a }
  frame : MarkedFrom (s.head (headOf c)).frame (t.head (headOf c)).frame
  again : (s.head (headOf c)).again = none → (t.head (headOf c)).again = none
  queue : ∀ x ∈ (t.chan c).queue, x ∈ (s.chan c).queue
  slot : (s.chan c).slot = .empty → (t.chan c).slot = .empty
  live : (s.chan c).live = none → (t.chan c).live = none
  request : (s.chan c).queue = [] → (s.chan c).shipRequest = false → (t.chan c).shipRequest = false
  requests : (s.chan c).queue = [] → ∀ q ∈ (t.head (headOf c)).queue, q ∈ (s.head (headOf c)).queue
  transfers : ∀ y ∈ t.port.transfers, y ∈ s.port.transfers

theorem OwnWork.refl (c : ChanId) (s : State) : OwnWork c s s :=
  ⟨.refl s, fun _ _ => rfl, fun _ _ => rfl, ⟨_, _, _, rfl⟩, .refl _, id, fun _ h => h, id, id, fun _ => id, fun _ _ h => h,
    fun _ h => h⟩

theorem OwnWork.trans {c : ChanId} {s t u : State} (h : OwnWork c s t) (k : OwnWork c t u) : OwnWork c s u where
  runs := h.runs.trans k.runs
  others d hd := (k.others d hd).trans (h.others d hd)
  otherHeads g hg := (k.otherHeads g hg).trans (h.otherHeads g hg)
  head := by
    obtain ⟨q, f, a, e⟩ := h.head
    obtain ⟨q', f', a', e'⟩ := k.head
    exact ⟨q', f', a', by rw [e', e]⟩
  frame := h.frame.trans k.frame
  again x := k.again (h.again x)
  queue x hx := h.queue x (k.queue x hx)
  slot x := k.slot (h.slot x)
  live x := k.live (h.live x)
  request hq hr := k.request (List.eq_nil_iff_forall_not_mem.2 fun x hx => by
    have := h.queue x hx
    rw [hq] at this
    cases this) (h.request hq hr)
  requests hq q hm := h.requests hq q (k.requests (List.eq_nil_iff_forall_not_mem.2 fun x hx => by
    have := h.queue x hx
    rw [hq] at this
    cases this) q hm)
  transfers y hy := h.transfers y (k.transfers y hy)

theorem OwnWork.ite {c : ChanId} {s t u : State} {p : Prop} [Decidable p] (ht : p → OwnWork c s t)
    (hu : ¬p → OwnWork c s u) : OwnWork c s (if p then t else u) := by
  split
  next h => exact ht h
  next h => exact hu h

/-- Work that touches no head. -/
theorem OwnWork.of_heads {c : ChanId} {s t : State} (hruns : Runs s t) (hheads : t.heads = s.heads)
    (hothers : ∀ d, d ≠ c → t.chan d = s.chan d) (hqueue : ∀ x ∈ (t.chan c).queue, x ∈ (s.chan c).queue)
    (hslot : (s.chan c).slot = .empty → (t.chan c).slot = .empty)
    (hlive : (s.chan c).live = none → (t.chan c).live = none)
    (hrequest : (t.chan c).shipRequest = (s.chan c).shipRequest)
    (htransfers : ∀ y ∈ t.port.transfers, y ∈ s.port.transfers) : OwnWork c s t := by
  have hhead : ∀ g, t.head g = s.head g := fun g => by rw [State.head, hheads, State.head]
  exact ⟨hruns, hothers, fun g _ => hhead g, ⟨_, _, _, hhead _⟩,
    by rw [hhead]; exact .refl _, fun k => by rw [hhead]; exact k, hqueue, hslot, hlive,
    fun _ k => by rw [hrequest]; exact k, fun _ q hq => by rw [hhead] at hq; exact hq, htransfers⟩

/-- Work that touches no channel and no head. -/
theorem OwnWork.of_ctl {c : ChanId} {s t : State} (hruns : Runs s t) (hheads : t.heads = s.heads)
    (hchans : t.chans = s.chans) (htransfers : ∀ y ∈ t.port.transfers, y ∈ s.port.transfers) : OwnWork c s t := by
  have hchan : ∀ d, t.chan d = s.chan d := fun d => by rw [State.chan, hchans, State.chan]
  exact .of_heads hruns hheads (fun d _ => hchan d) (fun x hx => by rw [hchan] at hx; exact hx)
    (fun k => by rw [hchan]; exact k) (fun k => by rw [hchan]; exact k) (by rw [hchan]) htransfers

/-- One channel written, its queue, slot and live composition at most emptied and its request kept. -/
theorem OwnWork.setChan {c : ChanId} (s : State) (x : Channel) (hlaw : (s.chan c).QueueLaw → x.QueueLaw)
    (hqueue : ∀ y ∈ x.queue, y ∈ (s.chan c).queue) (hslot : (s.chan c).slot = .empty → x.slot = .empty)
    (hlive : (s.chan c).live = none → x.live = none) (hrequest : x.shipRequest = (s.chan c).shipRequest) :
    OwnWork c s (s.setChan c x) :=
  .of_heads (.setChan s c x hlaw) rfl (fun d hd => State.setChan_chan_ne s c d x hd)
    (fun y hy => hqueue y (by rwa [State.setChan_chan_self] at hy))
    (fun k => by rw [State.setChan_chan_self]; exact hslot k) (fun k => by rw [State.setChan_chan_self]; exact hlive k)
    (by rw [State.setChan_chan_self, hrequest]) fun _ h => h

theorem mem_of_mem_dropFront {r : LineRef} {q : List ComposedLine} {x : ComposedLine} (h : x ∈ dropFront r q) : x ∈ q := by
  cases q with
  | nil => exact h
  | cons l ls =>
    rw [show dropFront r (l :: ls) = if l.ref = r then ls else l :: ls from rfl] at h
    by_cases hl : l.ref = r
    · rw [if_pos hl] at h; exact List.mem_cons_of_mem _ h
    · rw [if_neg hl] at h; exact h

theorem linePass_ownWork (c : ChanId) (o : PassOutcome) (s : State) : OwnWork c s (linePass c o s) := by
  cases hn : (s.chan c).next with
  | none =>
    have hsame : linePass c o s = s := by unfold linePass; rw [hn]
    rw [hsame]
    exact .refl c s
  | some r =>
    obtain ⟨p, hp⟩ := linePass_chan_self hn o
    refine .of_heads (linePass_runs c o s) (linePass_heads c o s) (fun d hd => linePass_chan_ne c o s hd) ?_ ?_ ?_ ?_
      (fun y hy => by rwa [linePass_onlyChanges c o s .port (by decide)] at hy)
    · rw [hp]; exact fun x hx => mem_of_mem_dropFront hx
    · rw [hp]; intro k; simp [passedChannel, slotAfter, k]
    · rw [hp]; intro k; simp [passedChannel, k]
    · rw [hp]; rfl

theorem fire_ownWork (c : ChanId) (l : ComposedLine) (s : State) : OwnWork c s (fire c l s) :=
  (OwnWork.setChan s _ (by exact id) (by exact fun _ h => h) (by exact id) (by exact id) (by rfl)).trans
    (linePass_ownWork c _ _)

/-- A halt takes no transfer up. -/
theorem halt_transfers (cause : HaltCause) (s : State) : ∀ y ∈ (halt cause s).port.transfers, y ∈ s.port.transfers := by
  by_cases hw : working s = true
  · intro y hy
    cases hx : readerXfer s.reader.work with
    | some x =>
      obtain ⟨-, g, tail, hport⟩ := halt_of_read hw hx cause
      rw [hport] at hy
      exact List.mem_of_mem_filter hy
    | none =>
      have hread : discardReads (s.withCtl { s.ctl with engine := .halted, cause := cause }) =
          s.withCtl { s.ctl with engine := .halted, cause := cause } := by
        unfold discardReads
        rw [State.withCtl_reader, hx]
      obtain ⟨tail, hport⟩ := raise_port_adds .engineHalted (s.withCtl { s.ctl with engine := .halted, cause := cause })
      rw [halt_of_working hw, hread, hport] at hy
      exact hy
  · rw [halt, if_neg hw]
    exact fun _ h => h

theorem halt_ownWork (c : ChanId) (cause : HaltCause) (s : State) : OwnWork c s (halt cause s) :=
  .of_ctl (halt_runs cause s) (halt_onlyChanges cause s .heads (by decide)) (halt_onlyChanges cause s .chans (by decide))
    (halt_transfers cause s)

theorem starve_ownWork (c : ChanId) (s : State) : OwnWork c s (starve c s) := by
  unfold starve
  have h := linePass_ownWork c .starved s
  split
  · exact .ite (fun _ => h.trans (halt_ownWork c _ _)) fun _ => h
  · exact h

theorem crossWaiting_ownWork (c : ChanId) (s : State) : OwnWork c s (crossWaiting c s) := by
  unfold crossWaiting
  split
  · exact .ite (fun _ => fire_ownWork _ _ _) fun _ => .setChan s _ (by exact id) (by exact fun _ h => h) (by exact id)
      (by exact id) (by rfl)
  · exact starve_ownWork _ _

/-- The channel's own head written, its queue at most emptied and its frames kept where there are none. -/
theorem OwnWork.setHead {c : ChanId} (s : State) (q : List LinkRequest) (f a : Option Frame)
    (hq : ∀ x ∈ q, x ∈ (s.head (headOf c)).queue) (hf : MarkedFrom (s.head (headOf c)).frame f)
    (ha : (s.head (headOf c)).again = none → a = none) :
    OwnWork c s (s.setHead (headOf c) { s.head (headOf c) with queue := q, frame := f, again := a }) where
  runs := .setHead s _ _ fun k => k.congr rfl rfl rfl rfl rfl
  others _ _ := rfl
  otherHeads g hg := State.setHead_head_ne _ _ _ _ hg
  head := ⟨q, f, a, State.setHead_head_self _ _ _⟩
  frame := by rw [State.setHead_head_self]; exact hf
  again k := by rw [State.setHead_head_self]; exact ha k
  queue _ h := h
  slot := id
  live := id
  request _ := id
  requests _ x hx := hq x (by rwa [State.setHead_head_self] at hx)
  transfers _ h := h

theorem withdrawTransit_ownWork (c : ChanId) (s : State) : OwnWork c s (withdrawTransit c s) := by
  unfold withdrawTransit
  split
  · exact .setHead s _ _ _ (fun _ h => h) (markedFrom_markWithdrawn _ _) (fun h => by rw [h]; rfl)
  · exact .refl c s
  · exact .refl c s

theorem withdrawRequest_ownWork (c : ChanId) (s : State) : OwnWork c s (withdrawRequest c s) := by
  unfold withdrawRequest
  refine .ite (fun _ => ?_) fun _ => .refl c s
  have hhead := OwnWork.setHead (c := c) (s.setChan c { s.chan c with shipRequest := false })
    (removeKind (shipKind c) (s.head (headOf c)).queue) (s.head (headOf c)).frame (s.head (headOf c)).again
    (fun x hx => List.mem_of_mem_filter hx) (.refl _) id
  refine OwnWork.trans ?_ hhead
  exact { OwnWork.refl c s with
    runs := .setChan s c _ (by exact id)
    others := fun d hd => State.setChan_chan_ne _ _ _ _ hd
    otherHeads := fun _ _ => rfl
    head := ⟨_, _, _, rfl⟩
    frame := .refl _
    again := id
    queue := fun x hx => by rw [State.setChan_chan_self] at hx; exact hx
    slot := fun k => by rw [State.setChan_chan_self]; exact k
    live := fun k => by rw [State.setChan_chan_self]; exact k
    request := fun _ _ => by rw [State.setChan_chan_self]
    requests := fun _ _ h => h
    transfers := fun _ h => h }

theorem dropDeferred_ownWork (c : ChanId) (s : State) : OwnWork c s (dropDeferred c s) :=
  ((withdrawTransit_ownWork c s).trans (withdrawRequest_ownWork c _)).trans (linePass_ownWork c _ _)

theorem crossing_ownWork (c : ChanId) (s : State) : OwnWork c s (crossing c s) := by
  unfold crossing
  split
  · exact .refl c s
  · exact .refl c s
  · exact linePass_ownWork _ _ _
  · exact crossWaiting_ownWork _ _
  · have h := dropDeferred_ownWork c s
    dsimp only
    split
    · exact h.trans (crossWaiting_ownWork _ _)
    · exact h.trans (linePass_ownWork _ _ _)
    · exact h
    · exact h
    · exact h

theorem settleLoop_ownWork (n : Nat) (c : ChanId) (s : State) : OwnWork c s (settleLoop n c s) := by
  induction n generalizing s with
  | zero => exact .refl c s
  | succ n ih =>
    unfold settleLoop
    split
    · exact .ite (fun _ => (crossing_ownWork c s).trans (ih _)) fun _ => .refl c s
    · exact .refl c s

/-- A channel with no composed line asks for no shipping. -/
theorem requestShip_of_not_composed {s : State} {c : ChanId} (h : nextComposed (s.chan c) = none) :
    requestShip c s = s := by
  simp [requestShip, mayRequestShip, h]

theorem nextComposed_of_empty {ch : Channel} (h : ch.queue = []) : nextComposed ch = none := by simp [nextComposed, h]

theorem requestShip_ownWork (c : ChanId) (s : State) : OwnWork c s (requestShip c s) := by
  have hruns := requestShip_runs c s
  have hempty : (s.chan c).queue = [] → requestShip c s = s := fun h =>
    requestShip_of_not_composed (nextComposed_of_empty h)
  have hfacts : (∀ d, d ≠ c → (requestShip c s).chan d = s.chan d) ∧
      (∀ g, g ≠ headOf c → (requestShip c s).head g = s.head g) ∧
      (∃ q, (requestShip c s).head (headOf c) = { s.head (headOf c) with queue := q }) ∧
      ∃ b, (requestShip c s).chan c = { s.chan c with shipRequest := b } := by
    unfold requestShip
    split
    · exact ⟨fun d hd => State.setChan_chan_ne _ _ _ _ hd, fun g hg => State.setHead_head_ne _ _ _ _ hg,
        ⟨_, State.setHead_head_self _ _ _⟩, ⟨_, State.setChan_chan_self _ _ _⟩⟩
    · exact ⟨fun _ _ => rfl, fun _ _ => rfl, ⟨_, rfl⟩, ⟨_, rfl⟩⟩
  obtain ⟨hchan, hhead, ⟨q, hq⟩, ⟨b, hb⟩⟩ := hfacts
  exact
    { runs := hruns, others := hchan, otherHeads := hhead, head := ⟨_, _, _, hq⟩
      frame := by rw [hq]; exact .refl _
      again := fun k => by rw [hq]; exact k
      queue := fun x hx => by rw [hb] at hx; exact hx
      slot := fun k => by rw [hb]; exact k
      live := fun k => by rw [hb]; exact k
      request := fun he hr => by rw [hempty he]; exact hr
      requests := fun he x hx => by rw [hempty he] at hx; exact hx
      transfers := fun y hy => by rwa [requestShip_onlyChanges c s .port (by decide)] at hy }

theorem settle_ownWork (c : ChanId) (s : State) : OwnWork c s (settle c s) :=
  (settleLoop_ownWork _ c s).trans (requestShip_ownWork c _)

theorem offerCount_ownWork (p : Position) (c : ChanId) (s : State) : OwnWork c s (offerCount p c s) := by
  unfold offerCount
  split
  · exact .ite (fun _ => (crossing_ownWork _ _).trans (settle_ownWork _ _)) fun _ => .refl c s
  · exact .refl c s

theorem adjustCompose_ownWork (c : ChanId) (s : State) : OwnWork c s (adjustCompose c s) := by
  obtain ⟨p, hp, -⟩ := adjustCompose_chan_self c s
  exact .of_heads (adjustCompose_runs c s) (adjustCompose_onlyChanges c s .heads (by decide))
    (fun d hd => adjustCompose_chan_ne c s hd) (fun x hx => by rw [hp] at hx; exact hx)
    (fun k => by rw [hp]; exact k) (fun k => by rw [hp]; exact k) (by rw [hp])
    (fun y hy => by rwa [adjustCompose_onlyChanges c s .port (by decide)] at hy)

/-! ## What one channel's work leaves of the heads -/

/-- Of its head one channel's work changes neither service, link, return band nor anything else of a park. -/
theorem OwnWork.head_fields {c : ChanId} {s t : State} (h : OwnWork c s t) (g : HeadId) :
    ∃ q f a, t.head g = { s.head g with queue := q, frame := f, again := a } := by
  by_cases hg : g = headOf c
  · subst hg; exact h.head
  · exact ⟨_, _, _, h.otherHeads g hg⟩

theorem OwnWork.service {c : ChanId} {s t : State} (h : OwnWork c s t) (g : HeadId) :
    (t.head g).service = (s.head g).service := by
  obtain ⟨q, f, a, e⟩ := h.head_fields g
  rw [e]

theorem OwnWork.serves {c : ChanId} {s t : State} (h : OwnWork c s t) (g : HeadId) (band : Nat) :
    serves t g band = serves s g band := by
  obtain ⟨q, f, a, e⟩ := h.head_fields g
  rw [Machine.serves, Machine.serves, e]

end Sys2Proof.Machine

/-! PROOFS. The Position Unit's commands and the crossings (chapters 1 and 7). -/

namespace Sys2Proof.Machine

/-! ## What a channel watches -/

/-- A channel's state and target are read off its own fields, the lines' places, its head and the engine. -/
theorem chanState_congr {s t : State} {c : ChanId} (hf : frozen t = frozen s) (hc : t.chan c = s.chan c)
    (hl : SameLines s t) (hs : ∀ band, serves t (headOf c) band = serves s (headOf c) band) :
    chanState t c = chanState s c := by
  unfold chanState
  rw [hf, hc]
  simp only [hl.target, hs]

theorem watched_congr {s t : State} {c : ChanId} (hf : frozen t = frozen s) (hc : t.chan c = s.chan c)
    (hl : SameLines s t) (hs : ∀ band, serves t (headOf c) band = serves s (headOf c) band) :
    watched t c = watched s c := by
  unfold watched
  rw [chanState_congr hf hc hl hs, hc]
  have htarget : target t c = target s c := funext fun r => hl.target c r
  have hafter : lineAfter t c = lineAfter s c := funext fun r => hl.lineAfter c r
  rw [htarget, hafter]

/-- Work leaves an engine's being FROZEN as it is, or halts it. -/
theorem Runs.frozen {s t : State} (h : Runs s t) (ht : frozen t = false) : frozen s = false := by
  rcases h.engine with he | he
  · rw [Machine.frozen] at ht ⊢
    rwa [he] at ht
  · rw [Machine.frozen, he] at ht
    cases ht

/-- Work on one channel leaves what another watches, or freezes it. -/
theorem OwnWork.watched {c d : ChanId} {s t : State} (h : OwnWork c s t) (hd : d ≠ c) :
    watched t d = watched s d ∨ watched t d = none := by
  cases hf : Machine.frozen t with
  | true => exact .inr (watched_of_frozen hf d)
  | false =>
    exact .inl (watched_congr (by rw [hf, h.runs.frozen hf]) (h.others d hd) h.runs.sameLines fun band => h.serves _ band)

/-! ## FORWARD_COUNT -/

theorem posNat_posForward (inc : Nat) (p : Position) : posNat (posForward inc p) = min (posNat p + inc) (2 ^ 56 - 1) :=
  posNat_posOfNat (by
    have htop : Config.positionTop = 2 ^ 56 := rfl
    omega)

theorem exec_forwardCount_of_layout {s : State} {l : Layout} (h : s.layout = some l) :
    exec .forwardCount s = .next (allChans.foldl (fun u c => offerCount s.posn.pos c u)
      (setPos (posForward l.increment s.posn.pos)
        (setPair (if l.invert then tableBackward (pairOf s) else tableForward (pairOf s)) s))) := by
  show execForwardCount s = _
  simp only [execForwardCount, inverted, h]

theorem exec_forwardCount_of_no_layout {s : State} (h : s.layout = none) :
    exec .forwardCount s = .next (setPair (tableForward (pairOf s)) s) := by
  show execForwardCount s = _
  simp [execForwardCount, inverted, h]

theorem foldl_offerCount_service (p : Position) (l : List ChanId) (s : State) (g : HeadId) :
    ((l.foldl (fun u c => offerCount p c u) s).head g).service = (s.head g).service := by
  induction l generalizing s with
  | nil => rfl
  | cons c l ih => exact (ih _).trans ((offerCount_ownWork p c s).service g)

/-- Settles O12: the count moves P and the decoder, and the crossings are channels' work. -/
theorem forwardCountMovesPosition : Obligations.ForwardCountMovesPosition := by
  intro s
  refine ⟨fun h => ?_, fun l h => ⟨_, exec_forwardCount_of_layout h, ?_⟩⟩
  · exact exec_forwardCount_of_no_layout h
  · have hruns : Runs _ _ := Runs.foldl (fun u c => offerCount s.posn.pos c u)
      (fun u c => offerCount_runs s.posn.pos c u) allChans
      (setPos (posForward l.increment s.posn.pos)
        (setPair (if l.invert then tableBackward (pairOf s) else tableForward (pairOf s)) s))
    rw [hruns.posn]
    refine ⟨posNat_posForward _ _, ?_, rfl, rfl, rfl, hruns.layout, hruns.tick, by rw [hruns.win]; rfl, hruns.plans,
      hruns.sets, fun g => foldl_offerCount_service _ _ _ g⟩
    cases l.invert <;> rfl

/-- A channel takes a count only when the count brings P to the target it watches. -/
theorem offerCount_of_not_crossed {s : State} {before : Position} {c : ChanId}
    (h : ¬∃ t, watched s c = some t ∧ reached before t = false ∧ reached s.posn.pos t = true) :
    offerCount before c s = s := by
  unfold offerCount
  split
  next t ht =>
    refine if_neg fun k => h ⟨t, ht, ?_⟩
    simpa using k
  next => rfl

theorem offerCount_of_crossed {s : State} {before : Position} {c : ChanId}
    (h : ∃ t, watched s c = some t ∧ reached before t = false ∧ reached s.posn.pos t = true) :
    offerCount before c s = settle c (crossing c s) := by
  obtain ⟨t, ht, hb, hr⟩ := h
  unfold offerCount
  rw [ht]
  exact if_pos (by simp [hb, hr])

theorem foldl_offerCount_of_not_crossed {s : State} {before : Position} (l : List ChanId)
    (h : ∀ c ∈ l, ¬∃ t, watched s c = some t ∧ reached before t = false ∧ reached s.posn.pos t = true) :
    l.foldl (fun u c => offerCount before c u) s = s := by
  induction l with
  | nil => rfl
  | cons c l ih =>
    rw [List.foldl_cons, offerCount_of_not_crossed (h c List.mem_cons_self)]
    exact ih fun d hd => h d (List.mem_cons_of_mem _ hd)

/-- Of channels each offered a count once, one alone takes it. -/
theorem foldl_offerCount_of_one {s : State} {before : Position} {c : ChanId} (l : List ChanId) (hmem : c ∈ l)
    (hnodup : l.Nodup) (hc : ∃ t, watched s c = some t ∧ reached before t = false ∧ reached s.posn.pos t = true)
    (hd : ∀ d, d ≠ c → ¬∃ t, watched s d = some t ∧ reached before t = false ∧ reached s.posn.pos t = true) :
    l.foldl (fun u c => offerCount before c u) s = settle c (crossing c s) := by
  obtain ⟨l1, l2, rfl⟩ := List.append_of_mem hmem
  obtain ⟨-, hnodup2, hdisj⟩ := List.nodup_append.1 hnodup
  have hne1 : ∀ d ∈ l1, d ≠ c := fun d hd => hdisj d hd c List.mem_cons_self
  have hne2 : ∀ d ∈ l2, d ≠ c := fun d hd e => (List.nodup_cons.1 hnodup2).1 (e ▸ hd)
  rw [List.foldl_append, foldl_offerCount_of_not_crossed l1 fun d h => hd d (hne1 d h), List.foldl_cons,
    offerCount_of_crossed hc]
  have hwork : OwnWork c s (settle c (crossing c s)) := (crossing_ownWork c s).trans (settle_ownWork c _)
  refine foldl_offerCount_of_not_crossed l2 fun d hmem2 => ?_
  rintro ⟨t, ht, hb, hr⟩
  rw [hwork.runs.posn] at hr
  rcases hwork.watched (hne2 d hmem2) with e | e
  · exact hd d (hne2 d hmem2) ⟨t, e ▸ ht, hb, hr⟩
  · rw [e] at ht
    cases ht

/-- Settles O13: the fold over the channels is one channel's crossing, or nothing. -/
theorem forwardCountCrossings : Obligations.ForwardCountCrossings := by
  intro s l hl q s1 crossed
  have hexec : exec .forwardCount s = .next (allChans.foldl (fun u c => offerCount s.posn.pos c u) s1) := by
    rw [exec_forwardCount_of_layout hl]
    rfl
  have hwatched : ∀ c, watched s1 c = watched s c := fun c => watched_congr rfl rfl (.of_win rfl rfl) fun _ => rfl
  have hcrossed : ∀ c, (∃ t, watched s1 c = some t ∧ reached s.posn.pos t = false ∧ reached s1.posn.pos t = true) ↔
      crossed c := fun c => by rw [hwatched]
  refine ⟨fun h => ?_, fun c hc hd => ?_⟩
  · rw [hexec, foldl_offerCount_of_not_crossed allChans fun c _ => mt (hcrossed c).1 (h c)]
  · rw [hexec, foldl_offerCount_of_one allChans (List.mem_finRange c) (List.nodup_finRange 32) ((hcrossed c).2 hc)
      fun d hne => mt (hcrossed d).1 (hd d hne)]

/-! ## PRODUCT_EDGE -/

theorem edgeAccepted_iff {s : State} {l : Layout} (h : s.layout = some l) (q : BitVec 40) :
    edgeAccepted s q = true ↔
      (s.ctl.engine = .running ∨ s.ctl.engine = .suspended ∨ s.ctl.engine = .draining) ∧
        ∀ r, s.posn.lockoutRef = some r → r.toNat + 256 * l.lockout ≤ q.toNat := by
  simp only [edgeAccepted, h, Bool.and_eq_true, working_iff]
  cases s.posn.lockoutRef <;> simp

theorem execProductEdge_of_layout {s : State} {l : Layout} (h : s.layout = some l)
    (hlevel : s.posn.productLevel = l.falling) :
    execProductEdge s = .next (takeEdge (setLevel (!l.falling) s)) := by
  unfold execProductEdge
  rw [h]
  exact if_neg (by rw [hlevel]; cases l.falling <;> decide)

theorem execProductDetectOtherChange_of_layout {s : State} {l : Layout} (h : s.layout = some l) :
    execProductDetectOtherChange s = .next (setLevel l.falling s) := by
  unfold execProductDetectOtherChange
  rw [h]

theorem captureOf_toNat (p : Position) :
    (captureOf p).toNat = p.line.toNat * 256 + p.frac.toNat / 65536 := by
  have hline := p.line.isLt
  have hfrac := p.frac.isLt
  rw [captureOf, BitVec.toNat_ofNat, Nat.mod_eq_of_lt (by omega)]

/-- Settles O16, by the acceptance test and the room in the queue. -/
theorem productEdgeTakesCapture : Obligations.ProductEdgeTakesCapture := by
  intro s l hl
  refine ⟨?_, fun hlevel => ?_⟩
  · exact execProductDetectOtherChange_of_layout hl
  · intro q accepted
    have hexec : exec .productEdge s = .next (takeEdge (setLevel (!l.falling) s)) := execProductEdge_of_layout hl hlevel
    have hl1 : (setLevel (!l.falling) s).layout = some l := hl
    have haccepted : edgeAccepted (setLevel (!l.falling) s) q = true ↔ accepted := edgeAccepted_iff hl1 q
    refine ⟨captureOf_toNat _, fun h => ?_, fun h hunbound => ?_⟩
    · rw [hexec]
      exact congrArg Host.Outcome.next (if_neg (mt haccepted.1 h))
    · have htake : takeEdge (setLevel (!l.falling) s) = takeCapture q
          ((setLevel (!l.falling) s).withPosn { (setLevel (!l.falling) s).posn with lockoutRef := some q }) :=
        if_pos (haccepted.2 h)
      rw [hexec, htake, takeCapture, show ((setLevel (!l.falling) s).withPosn
        { (setLevel (!l.falling) s).posn with lockoutRef := some q }).win.unbound = [] from hunbound]
      exact ⟨fun hroom => congrArg Host.Outcome.next (if_pos hroom),
        fun hfull => congrArg Host.Outcome.next (if_neg (Nat.not_lt.2 hfull))⟩

/-! ## Setters once more -/

theorem State.setChan_setChan (s : State) (c : ChanId) (x y : Channel) :
    (s.setChan c x).setChan c y = s.setChan c y := by
  simp [State.setChan, State.withChans]

theorem State.setHead_setHead (s : State) (h : HeadId) (x y : HeadLink) :
    (s.setHead h x).setHead h y = s.setHead h y := by
  simp [State.setHead, State.withHeads]

/-! ## STROBE_PULSE_END -/

theorem nextComposed_eq_some {ch : Channel} {x : ComposedLine} :
    nextComposed ch = some x ↔ ∃ r xs, ch.next = some r ∧ ch.queue = x :: xs ∧ x.ref = r := by
  unfold nextComposed
  constructor
  · intro h
    split at h
    next l ls r hq hr =>
      split at h
      next href => cases h; exact ⟨r, ls, hr, hq, href⟩
      next => cases h
    next => cases h
  · rintro ⟨r, xs, hr, hq, href⟩
    rw [hr, hq]
    exact if_pos href

/-- R135's conditions. -/
theorem mayRequestShip_iff (s : State) (c : ChanId) :
    mayRequestShip s c = true ↔
      (s.ctl.engine = .running ∨ s.ctl.engine = .suspended ∨ s.ctl.engine = .draining) ∧
      (∃ r x xs, (s.chan c).next = some r ∧ (s.chan c).queue = x :: xs ∧ x.ref = r ∧
        serves s (headOf c) r.band = true) ∧
      (s.chan c).slot = .empty ∧ (s.chan c).shipRequest = false ∧ (chanEntry s.layout c).isSome = true ∧
      (s.chan c).pulseEnd = none := by
  simp only [mayRequestShip, Bool.and_eq_true, working_iff, Option.isSome_iff_exists, nextComposed_eq_some,
    decide_eq_true_eq, Bool.not_eq_true', Option.isNone_iff_eq_none]
  constructor
  · rintro ⟨⟨⟨⟨⟨⟨hw, x, r, xs, hr, hq, href⟩, hserves⟩, hslot⟩, hpulse⟩, hreq⟩, hentry⟩
    rw [hr] at hserves
    exact ⟨hw, ⟨r, x, xs, hr, hq, href, hserves⟩, hslot, hreq, hentry, hpulse⟩
  · rintro ⟨hw, ⟨r, x, xs, hr, hq, href, hserves⟩, hslot, hreq, hentry, hpulse⟩
    refine ⟨⟨⟨⟨⟨⟨hw, x, r, xs, hr, hq, href⟩, ?_⟩, hslot⟩, hpulse⟩, hreq⟩, hentry⟩
    rw [hr]
    exact hserves

theorem requestShip_of_may {s : State} {c : ChanId} (h : mayRequestShip s c = true) :
    requestShip c s = addRequest (headOf c) (shipKind c) (s.setChan c { s.chan c with shipRequest := true }) := if_pos h

theorem requestShip_of_not {s : State} {c : ChanId} (h : ¬mayRequestShip s c = true) : requestShip c s = s := if_neg h

/-- Settles O19: the pulse ends, and the rule of R135 decides. -/
theorem strobePulseEndMayShip : Obligations.StrobePulseEndMayShip := by
  intro s c e he ch s1 may
  have hs1 : s1 = (advanceTo e s).setChan c ch := rfl
  have hchan : s1.chan c = ch := by rw [hs1, State.setChan_chan_self]
  have hexec : exec (.strobePulseEnd c) s = .next (requestShip c s1) := by
    show execStrobePulseEnd c s = _
    unfold execStrobePulseEnd
    rw [he]
    rfl
  have hmay : mayRequestShip s1 c = true ↔ may := by
    rw [mayRequestShip_iff, hchan]
    constructor
    · rintro ⟨hw, hline, hslot, hreq, hentry, -⟩
      exact ⟨hw, hline, hslot, hreq, hentry⟩
    · rintro ⟨hw, hline, hslot, hreq, hentry⟩
      exact ⟨hw, hline, hslot, hreq, hentry, rfl⟩
  refine ⟨?_, ?_, fun h => ?_, fun h => ?_⟩
  · simp only [firePin, he, Bool.and_eq_true, decide_eq_true_eq]
  · simp only [firePin, hchan]
    rfl
  · rw [hexec, requestShip_of_not (mt hmay.1 h)]
  · rw [hexec, requestShip_of_may (hmay.2 h), hchan, hs1, State.setChan_setChan]
    rfl

/-! ## Fired lines -/

theorem passed_fired_queue {r : LineRef} {x : ComposedLine} (xs : List ComposedLine) (h : x.ref = r) :
    dropFront r (x :: xs) = xs := if_pos h

/-- A channel whose strobe is asserted at this tick. -/
def struckChannel (now : Nat) (ch : Channel) : Channel := { ch with pulseEnd := some (now + 20), lastFire := some now }

theorem fire_eq (c : ChanId) (x : ComposedLine) (s : State) :
    fire c x s = linePass c (.fired x.dataFault x.lost) (s.setChan c (struckChannel s.tick (s.chan c))) := rfl

/-- A channel that has fired its line: pulse and last fire tick at this tick, queue and slot without the line. -/
theorem fire_chan_self {s : State} {c : ChanId} {r : LineRef} {x : ComposedLine} {xs : List ComposedLine}
    (hn : (s.chan c).next = some r) (hq : (s.chan c).queue = x :: xs) (href : x.ref = r)
    (hslot : (s.chan c).slot = .shipped r) :
    ((fire c x s).chan c).pulseEnd = some (s.tick + 20) ∧ ((fire c x s).chan c).lastFire = some s.tick ∧
    ((fire c x s).chan c).next = lineAfter s c r ∧ ((fire c x s).chan c).deferred = false ∧
    ((fire c x s).chan c).queue = xs ∧ ((fire c x s).chan c).slot = .empty := by
  have hn1 : ((s.setChan c (struckChannel s.tick (s.chan c))).chan c).next = some r := by
    rw [State.setChan_chan_self]; exact hn
  obtain ⟨p, hp⟩ := linePass_chan_self hn1 (.fired x.dataFault x.lost)
  rw [State.setChan_chan_self] at hp
  rw [fire_eq, hp]
  refine ⟨rfl, rfl, rfl, rfl, ?_, ?_⟩
  · show dropFront r (s.chan c).queue = xs
    rw [hq, passed_fired_queue xs href]
  · show slotAfter r (s.chan c).slot = .empty
    rw [hslot]
    exact if_pos rfl

theorem fire_chan_ne (c : ChanId) (x : ComposedLine) (s : State) {d : ChanId} (h : d ≠ c) :
    (fire c x s).chan d = s.chan d := (fire_ownWork c x s).others d h

theorem fire_win {s : State} {c : ChanId} {r : LineRef} (hn : (s.chan c).next = some r) (x : ComposedLine) :
    (fire c x s).win = { s.win with bands := s.win.bands.map fun b =>
      if b.id = r.band then reportTo (.fired x.dataFault x.lost) b else b } :=
  linePass_win (by rw [State.setChan_chan_self]; exact hn) _

/-- What has not been reached does not settle. -/
theorem settle_of_not_reached {s : State} {c : ChanId} (h : ∀ n, watched s c = some n → reached s.posn.pos n = false) :
    settle c s = requestShip c s := by
  have hloop : settleLoop (settleBound s) c s = s := by
    show (match watched s c with
      | some t => if reached s.posn.pos t then settleLoop _ c (crossing c s) else s
      | none => s) = s
    split
    next n hn => rw [h n hn]; rfl
    next => rfl
  rw [settle, hloop]

/-- A channel that is not DEFERRED watches at most the target of its next line. -/
theorem watched_of_not_deferred {s : State} {c : ChanId} {n : Nat} (hd : (s.chan c).deferred = false)
    (h : watched s c = some n) : ((s.chan c).next.bind (target s c)) = some n := by
  have hstate : chanState s c ≠ .deferred := by
    unfold chanState
    simp only [hd, Bool.false_eq_true, if_false]
    repeat' split
    all_goals nofun
  unfold watched at h
  dsimp only at h
  split at h
  · cases h
  · cases h
  next hs => exact absurd hs hstate
  · exact h
  · exact h

/-- A fired line whose follower is not reached: nothing crosses, and the pulse holds back the shipping. -/
theorem settle_fire_of_not_reached {s : State} {c : ChanId} {r : LineRef} {x : ComposedLine} {xs : List ComposedLine}
    (hn : (s.chan c).next = some r) (hq : (s.chan c).queue = x :: xs) (href : x.ref = r)
    (hslot : (s.chan c).slot = .shipped r)
    (hreach : ∀ n, (lineAfter s c r).bind (target s c) = some n → reached s.posn.pos n = false) :
    settle c (fire c x s) = fire c x s := by
  obtain ⟨hpulse, -, hnext, hdef, -, -⟩ := fire_chan_self hn hq href hslot
  have hruns := fire_runs c x s
  have htarget : target (fire c x s) c = target s c := funext fun q => hruns.sameLines.target c q
  rw [settle_of_not_reached fun n h => ?_]
  · refine requestShip_of_not fun k => ?_
    obtain ⟨-, -, -, -, -, hp⟩ := (mayRequestShip_iff _ _).1 k
    rw [hpulse] at hp
    cases hp
  · have hb := watched_of_not_deferred hdef h
    rw [hnext, htarget] at hb
    rw [hruns.posn]
    exact hreach n hb

theorem nextShipped_iff (ch : Channel) : nextShipped ch = true ↔ ∃ r, ch.slot = .shipped r ∧ ch.next = some r := by
  unfold nextShipped
  split
  next r n hs hn =>
    rw [decide_eq_true_iff]
    constructor
    · rintro rfl; exact ⟨r, hs, hn⟩
    · rintro ⟨q, hq, hqn⟩
      cases hs.symm.trans hq
      exact Option.some.inj (hqn.symm.trans hn)
  next hno =>
    constructor
    · intro h; cases h
    · rintro ⟨r, hs, hn⟩
      exact absurd hn (hno r r hs)

theorem fireDeferred_of_composed {s : State} {c : ChanId} {x : ComposedLine} (h : nextComposed (s.chan c) = some x) :
    fireDeferred c s = settle c (fire c x s) := by
  unfold fireDeferred
  rw [h]

/-- Settles O20, by the fired line and what then settles. -/
theorem periodEndFiresDeferredLine : Obligations.PeriodEndFiresDeferredLine := by
  intro s c e r x xs hstate hlast hn hq href hslot
  have hcomposed : nextComposed (s.chan c) = some x := nextComposed_eq_some.2 ⟨r, xs, hn, hq, href⟩
  have hship : nextShipped (s.chan c) = true := (nextShipped_iff _).2 ⟨r, hslot, hn⟩
  have hexec : exec (.periodEnd c) s = .next (settle c (fire c x (advanceTo (e + periodOf s c) s))) := by
    show execPeriodEnd c s = _
    unfold execPeriodEnd
    rw [hlast]
    dsimp only
    rw [if_pos ⟨hstate, hship⟩, fireDeferred_of_composed (s := advanceTo (e + periodOf s c) s) hcomposed]
  refine ⟨hexec, fun hreach => ⟨_, hexec, ?_⟩⟩
  have hsame : SameLines s (advanceTo (e + periodOf s c) s) := .of_win rfl rfl
  have hafter : lineAfter (advanceTo (e + periodOf s c) s) c r = lineAfter s c r := hsame.lineAfter c r
  have htarget : target (advanceTo (e + periodOf s c) s) c = target s c := funext fun q => hsame.target c q
  rw [settle_fire_of_not_reached (s := advanceTo (e + periodOf s c) s) hn hq href hslot (by rw [hafter, htarget]; exact hreach)]
  obtain ⟨hpulse, hfire, hnext, hdef, hqueue, hempty⟩ :=
    fire_chan_self (s := advanceTo (e + periodOf s c) s) hn hq href hslot
  have hruns := fire_runs c x (advanceTo (e + periodOf s c) s)
  rw [hruns.tick]
  refine ⟨rfl, hpulse, hfire, hnext.trans hafter, hdef, hqueue, hempty, fun d hd => fire_chan_ne c x _ hd, fire_win (s := advanceTo (e + periodOf s c) s) hn x,
    hruns.sets, ?_⟩
  exact ((withTick_onlyChanges s _).trans (fire_onlyChanges c x _)).mono (by decide)

/-! ## Crossings (R138 to R143) -/

theorem periodOver_iff (s : State) (c : ChanId) :
    periodOver s c = true ↔ ∀ e, (s.chan c).lastFire = some e → e + periodOf s c ≤ s.tick := by
  unfold periodOver
  cases (s.chan c).lastFire <;> simp

theorem nextComposed_eq_none {ch : Channel} {r : LineRef} (hn : ch.next = some r)
    (h : ¬∃ x xs, ch.queue = x :: xs ∧ x.ref = r) : nextComposed ch = none := by
  cases hc : nextComposed ch with
  | none => rfl
  | some x =>
    obtain ⟨r', xs, hr', hq, href⟩ := nextComposed_eq_some.1 hc
    cases hn.symm.trans hr'
    exact absurd ⟨x, xs, hq, href⟩ h

theorem dropFront_of_not_front {r : LineRef} {q : List ComposedLine} (h : ¬∃ x xs, q = x :: xs ∧ x.ref = r) :
    dropFront r q = q := by
  cases q with
  | nil => rfl
  | cons x xs => exact if_neg fun href => h ⟨x, xs, rfl, href⟩

theorem crossing_of_waiting {s : State} {c : ChanId} (h : chanState s c = .waiting) : crossing c s = crossWaiting c s := by
  unfold crossing
  rw [h]

theorem crossing_of_skipping {s : State} {c : ChanId} (h : chanState s c = .skipping) : crossing c s = skipLine c s := by
  unfold crossing
  rw [h]

theorem crossing_of_still {s : State} {c : ChanId} (h : chanState s c = .frozen ∨ chanState s c = .idle) :
    crossing c s = s := by
  unfold crossing
  rcases h with h | h <;> rw [h]

theorem chanState_ne_deferred {s : State} {c : ChanId} (hd : (s.chan c).deferred = false) : chanState s c ≠ .deferred := by
  unfold chanState
  simp only [hd, Bool.false_eq_true, if_false]
  repeat' split
  all_goals nofun

/-- A deferred line is dropped, and then the line that follows is crossed. -/
theorem crossing_of_deferred {s : State} {c : ChanId} (h : chanState s c = .deferred)
    (hd : ((dropDeferred c s).chan c).deferred = false) : crossing c s = crossing c (dropDeferred c s) := by
  have hne := chanState_ne_deferred hd
  rw [crossing, h]
  unfold crossing
  cases hs : chanState (dropDeferred c s) c with
  | deferred => exact absurd hs hne
  | idle => simp only [hs]
  | waiting => simp only [hs]
  | skipping => simp only [hs]
  | frozen => simp only [hs]

/-- What a line-pass does to its window, its channel and the others. -/
theorem linePass_passes {s : State} {c : ChanId} {r : LineRef} (hn : (s.chan c).next = some r) (o : PassOutcome) :
    (linePass c o s).win = { s.win with bands := s.win.bands.map fun b => if b.id = r.band then reportTo o b else b } ∧
    ((linePass c o s).chan c).next = lineAfter s c r ∧ ((linePass c o s).chan c).deferred = false ∧
    ∀ d, d ≠ c → (linePass c o s).chan d = s.chan d := by
  obtain ⟨p, hp⟩ := linePass_chan_self hn o
  exact ⟨linePass_win hn o, by rw [hp]; rfl, by rw [hp]; rfl, fun d hd => linePass_chan_ne c o s hd⟩

/-- A starved line passes, and under the HALT policy the engine halts. -/
theorem starve_eq (c : ChanId) (s : State) :
    starve c s = linePass c .starved s ∧ (∀ l, s.layout = some l → l.haltPolicy = false) ∨
    starve c s = halt .starved (linePass c .starved s) ∧ ∃ l, s.layout = some l ∧ l.haltPolicy = true := by
  unfold starve
  dsimp only
  cases hl : s.layout with
  | none => exact .inl ⟨rfl, nofun⟩
  | some l =>
    dsimp only
    cases hp : l.haltPolicy with
    | true => exact .inr ⟨rfl, l, rfl, hp⟩
    | false => exact .inl ⟨rfl, fun l' e => by cases e; exact hp⟩

theorem working_congr {s t : State} (h : t.ctl = s.ctl) : working t = working s := by rw [working, h, working]

/-- A starved line leaves its queue, its strobe and the other channels. -/
theorem starve_passes {s : State} {c : ChanId} {r : LineRef} (hn : (s.chan c).next = some r)
    (hnot : ¬∃ x xs, (s.chan c).queue = x :: xs ∧ x.ref = r) :
    ((starve c s).win = { s.win with bands := s.win.bands.map fun b => if b.id = r.band then reportTo .starved b else b } ∧
      ((starve c s).chan c).next = lineAfter s c r ∧ ((starve c s).chan c).deferred = false ∧
      ∀ d, d ≠ c → (starve c s).chan d = s.chan d) ∧
    ((starve c s).chan c).pulseEnd = (s.chan c).pulseEnd ∧ ((starve c s).chan c).queue = (s.chan c).queue := by
  obtain ⟨p, hp⟩ := linePass_chan_self hn .starved
  have hqueue : ((linePass c .starved s).chan c).queue = (s.chan c).queue := by
    rw [hp]
    exact dropFront_of_not_front hnot
  have hpass := linePass_passes hn .starved
  rcases starve_eq c s with ⟨e, -⟩ | ⟨e, -⟩
  · rw [e]
    exact ⟨hpass, by rw [hp]; rfl, hqueue⟩
  · have hwin := halt_onlyChanges .starved (linePass c .starved s) .win (by decide)
    have hchans := halt_onlyChanges .starved (linePass c .starved s) .chans (by decide)
    have hchan : ∀ d, (starve c s).chan d = (linePass c .starved s).chan d := fun d => by
      rw [e, State.chan, hchans, State.chan]
    obtain ⟨hw, hnext, hdef, hother⟩ := hpass
    refine ⟨⟨by rw [e, hwin]; exact hw, by rw [hchan, hnext], by rw [hchan, hdef], fun d hd => ?_⟩, ?_, ?_⟩
    · rw [hchan, hother d hd]
    · rw [hchan, hp]; rfl
    · rw [hchan, hqueue]

theorem starve_ctl {s : State} (c : ChanId) {l : Layout} (hl : s.layout = some l) :
    (l.haltPolicy = false → (starve c s).ctl = s.ctl) ∧
    (l.haltPolicy = true → working s = true → (starve c s).ctl.engine = .halted ∧ (starve c s).ctl.cause = .starved) := by
  have hctl := linePass_ctl c .starved s
  rcases starve_eq c s with ⟨e, hno⟩ | ⟨e, l', hl', hyes⟩
  · exact ⟨fun _ => by rw [e, hctl], fun hp => by rw [hno l hl] at hp; cases hp⟩
  · cases hl.symm.trans hl'
    refine ⟨fun hp => absurd (hyes.symm.trans hp) nofun, fun _ hw => ?_⟩
    rw [e, halt_ctl_of_working ((working_congr hctl).trans hw)]
    exact ⟨rfl, rfl⟩

/-! ## A deferred line dropped (R140, R163) -/

theorem withdrawTransit_chan (c d : ChanId) (s : State) : (withdrawTransit c s).chan d = s.chan d := by
  rw [State.chan, withdrawTransit_onlyChanges c s .chans (by decide), State.chan]

/-- The head of a channel whose line in transit, if any, is withdrawn. -/
theorem withdrawTransit_head (c : ChanId) (s : State) :
    (withdrawTransit c s).head (headOf c) =
      let d := s.head (headOf c)
      let transit := match (s.chan c).slot with
        | .transit _ => true
        | .empty | .shipped _ => false
      let mark := fun (f : Frame) => { f with withdrawn := f.withdrawn || (transit && match f.body with
        | .line row _ _ => decide (row = rowOf c)
        | .config _ | .query => false) }
      { d with frame := d.frame.map mark, again := d.again.map mark } := by
  have hid : ∀ f : Option Frame, f.map (fun f => { f with withdrawn := f.withdrawn || (false && match f.body with
      | .line row _ _ => decide (row = rowOf c)
      | .config _ | .query => false) }) = f := fun f => by simp
  have hmark : (fun f : Frame => { f with withdrawn := f.withdrawn || (true && match f.body with
      | .line row _ _ => decide (row = rowOf c)
      | .config _ | .query => false) }) = markWithdrawn (rowOf c) := by
    funext f
    unfold markWithdrawn
    cases hb : f.body with
    | line row r levels => by_cases hr : row = rowOf c <;> cases f <;> simp_all
    | config es => cases f; simp_all
    | query => cases f; simp_all
  cases hslot : (s.chan c).slot with
  | transit r =>
    have h : withdrawTransit c s = withdrawFrame c s := by rw [withdrawTransit, hslot]
    rw [h, withdrawFrame, State.setHead_head_self]
    dsimp only
    rw [hmark]
  | empty =>
    have h : withdrawTransit c s = s := by rw [withdrawTransit, hslot]
    rw [h]
    dsimp only
    rw [hid, hid]
  | shipped r =>
    have h : withdrawTransit c s = s := by rw [withdrawTransit, hslot]
    rw [h]
    dsimp only
    rw [hid, hid]

theorem withdrawRequest_chan_self (c : ChanId) (s : State) :
    (withdrawRequest c s).chan c = { s.chan c with shipRequest := false } := by
  unfold withdrawRequest
  split
  next => rw [State.setHead_chan, State.setChan_chan_self]
  next h => cases hc : s.chan c; simp_all

theorem withdrawRequest_head (c : ChanId) (s : State) :
    (withdrawRequest c s).head (headOf c) = { s.head (headOf c) with
      queue := if (s.chan c).shipRequest then (s.head (headOf c)).queue.filter (fun q => q.kind ≠ shipKind c)
        else (s.head (headOf c)).queue } := by
  unfold withdrawRequest
  split
  next h => rw [State.setHead_head_self]; rfl
  next h => rfl

/-- What is left after a channel's deferred line `r` has been dropped. -/
theorem dropDeferred_spec {s : State} {c : ChanId} {r : LineRef} (hn : (s.chan c).next = some r) :
    (∃ p, (dropDeferred c s).chan c =
      { passedChannel r (lineAfter s c r) { s.chan c with shipRequest := false } with compose := p }) ∧
    (dropDeferred c s).win = { s.win with bands := s.win.bands.map fun b => if b.id = r.band then reportTo .dropped b else b } ∧
    (dropDeferred c s).heads = (withdrawRequest c (withdrawTransit c s)).heads := by
  have hsame : SameLines s (withdrawRequest c (withdrawTransit c s)) :=
    ((withdrawTransit_runs c s).trans (withdrawRequest_runs c _)).sameLines
  have hwin : (withdrawRequest c (withdrawTransit c s)).win = s.win :=
    (((withdrawTransit_onlyChanges c s).trans (withdrawRequest_onlyChanges c _)) .win (by decide))
  have hchan : (withdrawRequest c (withdrawTransit c s)).chan c = { s.chan c with shipRequest := false } := by
    rw [withdrawRequest_chan_self, withdrawTransit_chan]
  have hn1 : ((withdrawRequest c (withdrawTransit c s)).chan c).next = some r := by rw [hchan]; exact hn
  obtain ⟨p, hp⟩ := linePass_chan_self hn1 .dropped
  rw [hsame.lineAfter, hchan] at hp
  refine ⟨⟨p, hp⟩, ?_, linePass_heads c _ _⟩
  rw [dropDeferred, linePass_win hn1, hwin]

/-- Settles O21, by the state of the crossed channel. -/
theorem crossingOutcomes : Obligations.CrossingOutcomes := by
  refine ⟨fun s c h => crossing_of_still h, fun s c r hn => ?_⟩
  intro composed ended t passes
  refine ⟨fun hw => ?_, fun hs => ?_, fun hd => ?_, fun b o => ?_⟩
  · have ht : t = crossWaiting c s := crossing_of_waiting hw
    refine ⟨fun x xs hq href hslot hended => ?_, fun hcomp hnot => ?_, fun hnot => ?_⟩
    · have hfire : t = fire c x s := by
        rw [ht, crossWaiting, nextComposed_eq_some.2 ⟨r, xs, hn, hq, href⟩]
        exact if_pos (Bool.and_eq_true_iff.2 ⟨(nextShipped_iff _).2 ⟨r, hslot, hn⟩, (periodOver_iff s c).2 hended⟩)
      obtain ⟨hpulse, hlast, hnext, hdef, hqueue, hempty⟩ := fire_chan_self hn hq href hslot
      simp only [passes, hfire]
      exact ⟨⟨fire_win hn x, hnext, hdef, fun d hd => fire_chan_ne c x s hd⟩, hpulse, hlast, hqueue, hempty,
        fire_onlyChanges c x s .ctl (by decide)⟩
    · obtain ⟨x, xs, hq, href⟩ := hcomp
      have hready : ¬(nextShipped (s.chan c) && periodOver s c) = true := fun h => by
        obtain ⟨hship, hover⟩ := Bool.and_eq_true_iff.1 h
        obtain ⟨r', hslot, hn'⟩ := (nextShipped_iff _).1 hship
        cases hn.symm.trans hn'
        exact hnot ⟨hslot, (periodOver_iff s c).1 hover⟩
      rw [ht, crossWaiting, nextComposed_eq_some.2 ⟨r, xs, hn, hq, href⟩]
      exact if_neg hready
    · have hstarve : t = starve c s := by rw [ht, crossWaiting, nextComposed_eq_none hn hnot]
      obtain ⟨hpass, hpulse, hqueue⟩ := starve_passes hn hnot
      simp only [passes, hstarve]
      exact ⟨hpass, hpulse, hqueue, fun l hl => starve_ctl c hl⟩
  · have ht : t = linePass c (.skipped (decide ((s.head (headOf c)).service ≠ .outOfService))) s := crossing_of_skipping hs
    obtain ⟨p, hp⟩ := linePass_chan_self hn (.skipped (decide ((s.head (headOf c)).service ≠ .outOfService)))
    simp only [passes, ht]
    exact ⟨linePass_passes hn _, by rw [hp]; rfl, by rw [hp]; rfl, linePass_ctl c _ s⟩
  · obtain ⟨⟨p, hp⟩, hwin, hheads⟩ := dropDeferred_spec hn
    have hwork := dropDeferred_ownWork c s
    have hhead : (dropDeferred c s).head (headOf c) = (withdrawRequest c (withdrawTransit c s)).head (headOf c) := by
      rw [State.head, hheads, State.head]
    refine ⟨dropDeferred c s, crossing_of_deferred hd (by rw [hp]; rfl), hwin, by rw [hp]; rfl, by rw [hp]; rfl,
      by rw [hp]; rfl, fun x xs hq href => ?_, fun hslot => ?_, by rw [hp]; rfl, by rw [hp]; rfl, hwork.others,
      hwork.otherHeads, ?_, hwork.runs.sets, ?_⟩
    · rw [hp]
      show dropFront r (s.chan c).queue = xs
      rw [hq, passed_fired_queue xs href]
    · rw [hp]
      show slotAfter r (s.chan c).slot = .empty
      rcases hslot with h | h <;> rw [h] <;> exact if_pos rfl
    · rw [hhead, withdrawRequest_head, withdrawTransit_chan, withdrawTransit_head] <;> rfl
    · exact (((withdrawTransit_onlyChanges c s).trans (withdrawRequest_onlyChanges c _)).trans
        (linePass_onlyChanges c _ _)).mono (by decide)
  · cases o with
    | fired df lost => cases df <;> simp [reportTo]
    | starved => simp [reportTo]
    | dropped => simp [reportTo]
    | skipped k => simp [reportTo]

end Sys2Proof.Machine

/-! PROOFS. The head links: acknowledgements on the return lane and what a frame's outcome does (chapter 8). -/

namespace Sys2Proof.Machine

/-! ## FRAME_END and LINK_RESET_END (R161) -/

/-- Settles O56, by the link's state. -/
theorem frameAndResetEnd : Obligations.FrameAndResetEnd := by
  refine ⟨fun s h => ?_, fun s h e => ⟨fun hl => ?_, fun hl => ?_⟩⟩
  · unfold resetPin
    cases (s.head h).link <;> simp
  · show execFrameEnd h s = _
    unfold execFrameEnd
    rw [hl]
    rfl
  · show execLinkResetEnd h s = _
    unfold execLinkResetEnd
    rw [hl]
    rfl

/-! ## The return lane (R157, R197) -/

/-- An acknowledgement that the lane carries whole is the one the model receives. -/
theorem ackBegins_of_answers {s : State} {h : HeadId} {since t : Nat} {ack : LaneReturn} {b : Byte}
    (ha : Answers s h since ack t b) :
    ackBegins ((s.head h).lane ++ [ack]) since = some t ∧ laneByte ((s.head h).lane ++ [ack]) t = b := by
  refine ⟨(ackBegins_iff ..).2 ha.begins, BitVec.eq_of_getLsbD_eq fun i hi => ?_⟩
  rw [laneByte_getLsbD _ _ _ hi, ha.byte i hi]

/-! ## Outcomes -/

/-- The frame of head `h` off the link, as every outcome finds it. -/
theorem answered_eq (s : State) (h : HeadId) (n : Nat) (lane : List LaneReturn) :
    (advanceTo n (s.setHead h { s.head h with lane := lane })).setHead h
      { (advanceTo n (s.setHead h { s.head h with lane := lane })).head h with link := .idle, frame := none } =
      answered s h (max s.tick n) lane := by
  have hhead : (advanceTo n (s.setHead h { s.head h with lane := lane })).head h = { s.head h with lane := lane } :=
    State.setHead_head_self _ _ _
  rw [hhead]
  exact congrArg (State.withTick · (max s.tick n)) (State.setHead_setHead s h _ _)

theorem answered_head_self (s : State) (h : HeadId) (now : Nat) (lane : List LaneReturn) :
    (answered s h now lane).head h = { s.head h with link := .idle, frame := none, lane := lane } :=
  State.setHead_head_self s h _

theorem answered_head_ne (s : State) {h g : HeadId} (now : Nat) (lane : List LaneReturn) (hg : g ≠ h) :
    (answered s h now lane).head g = s.head g :=
  State.setHead_head_ne s h g _ hg

/-- Writing the head of an answered frame once more. -/
theorem answered_setHead (s : State) (h : HeadId) (now : Nat) (lane : List LaneReturn) (x : HeadLink) :
    (answered s h now lane).setHead h x = { s with tick := now, heads := s.heads.set h x } :=
  congrArg (State.withTick · now) (State.setHead_setHead s h _ x)

/-- What an outcome does, the frame being off the link. -/
def outcome (h : HeadId) (f : Frame) (o : FrameOutcome) (count : Nat) (s : State) : State :=
  match f.body with
  | .line row r _ => lineOutcome h f row r o s
  | .config es =>
    let k := if o = .timeout then 0 else min count es.length
    let s2 := s.setHead h { s.head h with shadow := confirmedShadow es k (s.head h).shadow }
    if f.stale then s2 else configOutcome h f o (decide (k = es.length)) (es.drop k) s2
  | .query =>
    if f.stale then s
    else if f.forConfig then configOutcome h f o true [] s
    else if (s.head h).service = .parked then s.setHead h { s.head h with ready := decide (o = .ready) }
    else s

theorem takeOutcome_of_frame {s : State} {h : HeadId} {f : Frame} (hf : (s.head h).frame = some f) (o : FrameOutcome)
    (count : Nat) :
    takeOutcome h o count s = outcome h f o count (s.setHead h { s.head h with link := .idle, frame := none }) := by
  unfold takeOutcome outcome
  dsimp only
  rw [hf]
  dsimp only
  cases f.body with
  | line row r levels => rfl
  | config es => rfl
  | query => simp only [State.setHead_head_self]

/-- An acknowledgement received. -/
theorem exec_ackReceived_of_answers {s : State} {h : HeadId} {since t : Nat} {ack : LaneReturn} {b : Byte} {f : Frame}
    (hlink : (s.head h).link = .answerWait since) (hf : (s.head h).frame = some f) (ha : Answers s h since ack t b) :
    exec (.ackReceived h ack) s = .next (outcome h f (ackStatus b) (ackCount b)
      (answered s h (max s.tick (t + 7)) ((s.head h).lane ++ [ack]))) := by
  obtain ⟨hbegins, hbyte⟩ := ackBegins_of_answers ha
  have hlane : ((s.setHead h { s.head h with lane := (s.head h).lane ++ [ack] }).head h).lane =
      (s.head h).lane ++ [ack] := by rw [State.setHead_head_self]
  have hframe : ((advanceTo (t + 7) (s.setHead h { s.head h with lane := (s.head h).lane ++ [ack] })).head h).frame =
      some f := by
    show ((s.setHead h { s.head h with lane := (s.head h).lane ++ [ack] }).head h).frame = some f
    rw [State.setHead_head_self]
    exact hf
  show execAckReceived h ack s = _
  unfold execAckReceived
  rw [hlink]
  dsimp only
  rw [hbegins]
  dsimp only
  rw [if_pos ha.whole, receiveAck, hlane, hbyte, show Config.ackTicks = 7 from rfl, takeOutcome_of_frame hframe, answered_eq]

/-- Levels that complete no awaited acknowledgement only stand on the lane. -/
theorem exec_ackReceived_of_not_answers {s : State} {h : HeadId} {ack : LaneReturn}
    (hno : ∀ since t b, (s.head h).link = .answerWait since → ¬Answers s h since ack t b) :
    exec (.ackReceived h ack) s = .next (s.setHead h { s.head h with lane := (s.head h).lane ++ [ack] }) := by
  rcases execAckReceived_spec h ack s with ⟨since, t, b, hlink, ha, -⟩ | ⟨-, hexec⟩
  · exact absurd ha (hno since t b hlink)
  · exact hexec

/-- A frame times out when its lane holds no acknowledgement that ends before the 200th tick. -/
theorem exec_ackTimeout_of_none {s : State} {h : HeadId} {since : Nat} {f : Frame}
    (hlink : (s.head h).link = .answerWait since) (hf : (s.head h).frame = some f)
    (hno : ∀ b, BeginsAck (s.head h).lane since b → since + 200 ≤ b + 7) :
    exec (.ackTimeout h) s = .next (outcome h f .timeout 0
      (answered s h (max s.tick (since + 200)) (s.head h).lane)) := by
  have hlate : ackInTime (s.head h).lane since = false := by
    unfold ackInTime
    split
    next t ht =>
      have := hno t ((ackBegins_iff ..).1 ht)
      exact decide_eq_false (by rw [show Config.ackTicks = 7 from rfl, show Config.answerWindow = 200 from rfl]; omega)
    next => rfl
  have hsame : s.setHead h { s.head h with lane := (s.head h).lane } = s := by
    show s.withHeads (s.heads.set h s.heads[h.val]) = s
    rw [Vector.set_getElem_self]
    rfl
  show execAckTimeout h s = _
  unfold execAckTimeout
  rw [hlink]
  dsimp only
  rw [hlate, show Config.answerWindow = 200 from rfl]
  have hframe : ((advanceTo (since + 200) s).head h).frame = some f := hf
  rw [if_neg Bool.false_ne_true, takeOutcome_of_frame hframe]
  have heq := answered_eq s h (since + 200) (s.head h).lane
  rw [hsame] at heq
  rw [heq]

theorem exec_ackTimeout_of_begun {s : State} {h : HeadId} {since t : Nat} (hlink : (s.head h).link = .answerWait since)
    (hb : BeginsAck (s.head h).lane since t) (ht : t + 7 < since + 200) : exec (.ackTimeout h) s = .next s := by
  have hin : ackInTime (s.head h).lane since = true := by
    unfold ackInTime
    rw [(ackBegins_iff ..).2 hb]
    exact decide_eq_true ht
  show execAckTimeout h s = _
  unfold execAckTimeout
  rw [hlink]
  exact if_pos hin

/-! ## Statuses -/

theorem ackStatus_ready_iff (b : Byte) : ackStatus b = .ready ↔ b.extractLsb' 1 2 = 0 := by
  unfold ackStatus
  generalize b.extractLsb' 1 2 = n
  revert n
  decide

/-! ## The queries of a parked head (R165) -/

theorem queryPending_iff (d : HeadLink) :
    queryPending d = true ↔ (∃ q ∈ d.queue, q.kind = .query) ∨ ∃ f, d.frame = some f ∧ f.body = .query := by
  unfold queryPending
  cases hf : d.frame <;> simp

/-- Settles O60, by the timer and by the outcome of a QUERY frame. -/
theorem parkedHeadQueried : Obligations.ParkedHeadQueried := by
  intro s h hs
  refine ⟨?_, ?_⟩
  · intro e he pending d
    have hset : ((advanceTo e s).setHead h d).head h = d := State.setHead_head_self _ _ _
    have hexec : exec (.queryTimerExpiry h) s = .next (if queryPending d then (advanceTo e s).setHead h d
        else addRequest h .query ((advanceTo e s).setHead h d)) := by
      show execQueryTimerExpiry h s = _
      unfold execQueryTimerExpiry
      rw [he]
      dsimp only
      rw [if_pos hs]
      show Host.Outcome.next (if queryPending (((advanceTo e s).setHead h d).head h) = true then _ else _) = _
      rw [hset]
      rfl
    have hpending : queryPending d = true ↔ pending := queryPending_iff d
    refine ⟨fun hp => ?_, fun hp => ?_⟩
    · rw [hexec, if_pos (hpending.2 hp)]
      rfl
    · rw [hexec, if_neg (mt hpending.1 hp), addRequest, hset, State.setHead_setHead]
      rfl
  · intro since f hlink hf hbody hstale hconfig noted
    have hservice : ∀ now lane, ((answered s h now lane).head h).service = .parked := fun now lane => by
      rw [answered_head_self]; exact hs
    have hquery : ∀ o n now lane, outcome h f o n (answered s h now lane) =
        noted now lane (decide (o = .ready)) := fun o n now lane => by
      unfold outcome
      rw [hbody]
      dsimp only
      rw [hstale, hconfig, if_neg Bool.false_ne_true, if_neg Bool.false_ne_true, if_pos (hservice now lane),
        answered_head_self, answered_setHead]
    refine ⟨fun ack t b ha => ?_, fun hno => ?_⟩
    · rw [exec_ackReceived_of_answers hlink hf ha, hquery]
      simp only [ackStatus_ready_iff]
    · rw [exec_ackTimeout_of_none hlink hf hno, hquery]
      rfl

/-! ## The answer to a LINE frame (R136, R137, R162, R163) -/

theorem chanState_eq_deferred_iff (s : State) (c : ChanId) :
    chanState s c = .deferred ↔ frozen s = false ∧ (s.chan c).deferred = true := by
  constructor
  · intro h
    refine ⟨?_, ?_⟩
    · by_contra hf
      rw [chanState_of_frozen (Bool.eq_true_of_not_eq_false hf)] at h
      cases h
    · by_contra hd
      exact chanState_ne_deferred (Bool.eq_false_of_not_eq_true hd) h
  · rintro ⟨hf, hd⟩
    simp [chanState, hf, hd]

theorem ackStatus_checkError_iff (b : Byte) : ackStatus b = .checkError ↔ b.extractLsb' 1 2 = 1 := by
  unfold ackStatus
  generalize b.extractLsb' 1 2 = n
  revert n
  decide

theorem laneHigh_iff_bits (lane : List LaneReturn) (t : Nat) :
    laneHigh lane t = true ↔ ∃ x ∈ lane, ∃ i < 8, t = x.bit0 + i ∧ x.byte.getLsbD i = true := by
  rw [laneHigh_iff]
  refine exists_congr fun x => and_congr_right fun _ => ?_
  constructor
  · rintro ⟨hle, hbit⟩
    exact ⟨t - x.bit0, BitVec.lt_of_getLsbD hbit, by omega, hbit⟩
  · rintro ⟨i, -, rfl, hbit⟩
    exact ⟨Nat.le_add_right _ _, by rwa [Nat.add_sub_cancel_left]⟩

/-- A LINE frame's outcome. -/
theorem outcome_of_line {h : HeadId} {f : Frame} {row : Row} {r : LineRef} {levels : List (BitVec 2)}
    (hb : f.body = .line row r levels) (o : FrameOutcome) (n : Nat) (s : State) :
    outcome h f o n s = lineOutcome h f row r o s := by
  unfold outcome
  rw [hb]

theorem lineOutcome_of_stale {f : Frame} (hs : f.stale = true) (h : HeadId) (row : Row) (r : LineRef)
    (o : FrameOutcome) (s : State) : lineOutcome h f row r o s = s := by
  unfold lineOutcome
  exact if_pos hs

theorem lineOutcome_ready {f : Frame} (hs : f.stale = false) (h : HeadId) (row : Row) (r : LineRef) (s : State) :
    lineOutcome h f row r .ready s = if f.withdrawn then s else shipLine (chanOf h row) r s := by
  unfold lineOutcome
  rw [hs]
  rfl

theorem lineOutcome_checkError {f : Frame} (hs : f.stale = false) (h : HeadId) (row : Row) (r : LineRef) (s : State) :
    lineOutcome h f row r .checkError s =
      if f.withdrawn then s else if f.again then park h true s else if frozen s then s
      else s.setHead h { s.head h with again := some { f with again := true } } := by
  unfold lineOutcome
  rw [hs]
  rfl

theorem shipLine_of_not_ready {s : State} {c : ChanId} {r : LineRef} (hslot : (s.chan c).slot = .transit r)
    (h : ¬(chanState (s.setChan c { s.chan c with slot := .shipped r }) c = .deferred ∧
      nextShipped { s.chan c with slot := .shipped r } = true ∧
      periodOver (s.setChan c { s.chan c with slot := .shipped r }) c = true)) :
    shipLine c r s = s.setChan c { s.chan c with slot := .shipped r } := by
  unfold shipLine
  dsimp only
  rw [if_pos hslot, State.setChan_chan_self]
  exact if_neg h

theorem shipLine_of_ready {s : State} {c : ChanId} {r : LineRef} (hslot : (s.chan c).slot = .transit r)
    (hstate : chanState (s.setChan c { s.chan c with slot := .shipped r }) c = .deferred)
    (hnext : nextShipped { s.chan c with slot := .shipped r } = true)
    (hperiod : periodOver (s.setChan c { s.chan c with slot := .shipped r }) c = true) :
    shipLine c r s = fireDeferred c (s.setChan c { s.chan c with slot := .shipped r }) := by
  unfold shipLine
  dsimp only
  rw [if_pos hslot, State.setChan_chan_self]
  exact if_pos ⟨hstate, hnext, hperiod⟩

/-- The state with a line shipped and its frame answered. -/
def shippedState (s : State) (h : HeadId) (now : Nat) (lane : List LaneReturn) (c : ChanId) (r : LineRef) : State :=
  { answered s h now lane with chans := s.chans.set c { s.chan c with slot := .shipped r } }

theorem shippedState_eq (s : State) (h : HeadId) (now : Nat) (lane : List LaneReturn) (c : ChanId) (r : LineRef) :
    shippedState s h now lane c r = (answered s h now lane).setChan c { s.chan c with slot := .shipped r } := rfl

theorem shippedState_chan (s : State) (h : HeadId) (now : Nat) (lane : List LaneReturn) (c : ChanId) (r : LineRef) :
    (shippedState s h now lane c r).chan c = { s.chan c with slot := .shipped r } :=
  State.setChan_chan_self (answered s h now lane) c _

/-- READY for a line whose channel is not DEFERRED on it, or whose period runs on: the line stands shipped. -/
theorem shipLine_answered_waits {s : State} {h : HeadId} {now : Nat} {lane : List LaneReturn} {c : ChanId} {r : LineRef}
    (hslot : (s.chan c).slot = .transit r)
    (hno : ¬(chanState s c = .deferred ∧ ∀ e, (s.chan c).lastFire = some e → e + periodOf s c ≤ now)) :
    shipLine c r (answered s h now lane) = shippedState s h now lane c r := by
  refine shipLine_of_not_ready (s := answered s h now lane) hslot fun ⟨hstate, _, hperiod⟩ => hno ⟨?_, ?_⟩
  · rw [chanState_eq_deferred_iff, State.setChan_chan_self] at hstate
    exact (chanState_eq_deferred_iff s c).2 hstate
  · rw [periodOver_iff, State.setChan_chan_self] at hperiod
    exact hperiod

/-- READY for the line on which its channel is DEFERRED, the period being over: the line fires. -/
theorem shipLine_answered_fires {s : State} {h : HeadId} {now : Nat} {lane : List LaneReturn} {c : ChanId} {r : LineRef}
    {x : ComposedLine} {xs : List ComposedLine} (hslot : (s.chan c).slot = .transit r)
    (hstate : chanState s c = .deferred) (hn : (s.chan c).next = some r) (hq : (s.chan c).queue = x :: xs)
    (href : x.ref = r) (hended : ∀ e, (s.chan c).lastFire = some e → e + periodOf s c ≤ now) :
    shipLine c r (answered s h now lane) = settle c (fire c x (shippedState s h now lane c r)) := by
  have hstate' : chanState (shippedState s h now lane c r) c = .deferred := by
    rw [chanState_eq_deferred_iff, shippedState_chan]
    exact (chanState_eq_deferred_iff s c).1 hstate
  have hperiod : periodOver (shippedState s h now lane c r) c = true := by
    rw [periodOver_iff, shippedState_chan]
    exact hended
  refine (shipLine_of_ready (s := answered s h now lane) hslot hstate' ((nextShipped_iff _).2 ⟨r, rfl, hn⟩) hperiod).trans ?_
  refine fireDeferred_of_composed (s := shippedState s h now lane c r) ?_
  rw [shippedState_chan]
  exact nextComposed_eq_some.2 ⟨r, xs, hn, hq, href⟩

/-- Settles O57: the lane's search, and the answer to a LINE frame by its status. -/
theorem lineFrameAnswered : Obligations.LineFrameAnswered := by
  refine ⟨laneHigh_iff_bits, fun s h ack hno => exec_ackReceived_of_not_answers hno,
    fun s h since t hlink hb ht => exec_ackTimeout_of_begun hlink hb ht, ?_⟩
  intro s h ack since f row r levels begun byte hlink hf hbody ha c now lane taken shipped status
  have hexec : exec (.ackReceived h ack) s = .next (lineOutcome h f row r (ackStatus byte) taken) := by
    rw [exec_ackReceived_of_answers hlink hf ha, outcome_of_line hbody]
  have hstale : f.stale = true → lineOutcome h f row r (ackStatus byte) taken = taken := fun hs =>
    lineOutcome_of_stale hs h row r _ taken
  have hready : f.stale = false → status = 0 →
      lineOutcome h f row r (ackStatus byte) taken = if f.withdrawn then taken else shipLine c r taken := fun hs h0 => by
    rw [(ackStatus_ready_iff byte).2 h0, lineOutcome_ready hs]
  have herror : f.stale = false → status = 1 → lineOutcome h f row r (ackStatus byte) taken =
      if f.withdrawn then taken else if f.again then park h true taken else if frozen taken then taken
      else taken.setHead h { taken.head h with again := some { f with again := true } } := fun hs h1 => by
    rw [(ackStatus_checkError_iff byte).2 h1, lineOutcome_checkError hs]
  refine ⟨?_, ?_, ?_⟩
  · intro hnothing
    rw [hexec]
    cases hs : f.stale with
    | true => rw [hstale hs]
    | false =>
      rcases hnothing with hs' | ⟨hw, h0 | h1⟩
      · rw [hs] at hs'; cases hs'
      · rw [hready hs h0, if_pos hw]
      · rw [herror hs h1, if_pos hw]
  · intro hs hw h0 hslot
    have hship : exec (.ackReceived h ack) s = .next (shipLine c r taken) := by
      rw [hexec, hready hs h0, hw, if_neg Bool.false_ne_true]
    refine ⟨fun hstate => ?_, ?_⟩
    · rw [hship]
      exact congrArg Host.Outcome.next (shipLine_answered_waits hslot fun k => hstate k.1)
    · intro x xs hstate hn hq href ended
      refine ⟨fun hno => ?_, fun hended => ?_⟩
      · rw [hship]
        exact congrArg Host.Outcome.next (shipLine_answered_waits hslot fun k => hno k.2)
      · have hfires : exec (.ackReceived h ack) s = .next (settle c (fire c x shipped)) := by
          rw [hship]
          exact congrArg Host.Outcome.next (shipLine_answered_fires hslot hstate hn hq href hended)
        refine ⟨hfires, fun hreach => ⟨_, hfires, ?_⟩⟩
        have hchan : shipped.chan c = { s.chan c with slot := .shipped r } := shippedState_chan s h now lane c r
        have hn' : (shipped.chan c).next = some r := by rw [hchan]; exact hn
        have hq' : (shipped.chan c).queue = x :: xs := by rw [hchan]; exact hq
        have hslot' : (shipped.chan c).slot = .shipped r := by rw [hchan]
        have hsame : SameLines s shipped := .of_win rfl rfl
        have hafter : lineAfter shipped c r = lineAfter s c r := hsame.lineAfter c r
        have htarget : target shipped c = target s c := funext fun q => hsame.target c q
        rw [settle_fire_of_not_reached hn' hq' href hslot' (by rw [hafter, htarget]; exact hreach)]
        obtain ⟨hpulse, hfire, hnext, hdef, hqueue, hempty⟩ := fire_chan_self hn' hq' href hslot'
        exact ⟨(fire_runs c x shipped).tick, fire_onlyChanges c x shipped .heads (by decide), hpulse, hfire,
          hnext.trans hafter, hdef, hqueue, hempty,
          fun d hd => (fire_chan_ne c x shipped hd).trans (State.setChan_chan_ne taken c d _ hd), fire_win hn' x⟩
  · intro hs hw h1 hagain
    have hpath : exec (.ackReceived h ack) s = .next (if frozen taken then taken
        else taken.setHead h { taken.head h with again := some { f with again := true } }) := by
      rw [hexec, herror hs h1, hw, hagain, if_neg Bool.false_ne_true, if_neg Bool.false_ne_true]
    refine ⟨fun hfrozen => ?_, fun hfrozen => ?_⟩
    · rw [hpath, if_pos (show frozen taken = true from hfrozen)]
    · have hnot : ¬frozen taken = true := by
        rw [show frozen taken = frozen s from rfl, hfrozen]
        exact Bool.false_ne_true
      rw [hpath, if_neg hnot, answered_head_self, answered_setHead]
      rfl

end Sys2Proof.Machine

/-! PROOFS. Flushes and parks: what they leave of a channel, of its head and of everything else, and the parks
that follow a failed frame (chapters 6 and 8). -/

namespace Sys2Proof.Machine

/-! ## Emptied channels -/

theorem withdrawn_ownWork (c : ChanId) (s : State) : OwnWork c s (withdrawRequest c (withdrawTransit c s)) :=
  (withdrawTransit_ownWork c s).trans (withdrawRequest_ownWork c _)

theorem withdrawn_chan (c : ChanId) (s : State) :
    (withdrawRequest c (withdrawTransit c s)).chan c = { s.chan c with shipRequest := false } := by
  rw [withdrawRequest_chan_self, withdrawTransit_chan]

/-- An emptied channel keeps its place, its fire ticks and its live composition. -/
theorem emptied_chan (c : ChanId) (s : State) :
    (emptied c s).chan c = { s.chan c with queue := [], slot := .empty, shipRequest := false } := by
  show ((withdrawRequest c (withdrawTransit c s)).setChan c
    { (withdrawRequest c (withdrawTransit c s)).chan c with queue := [], slot := .empty }).chan c = _
  rw [State.setChan_chan_self, withdrawn_chan]

theorem emptied_ownWork (c : ChanId) (s : State) : OwnWork c s (emptied c s) :=
  (withdrawn_ownWork c s).trans (.setChan _ _ (fun _ => ⟨Nat.zero_le _, fun _ => (by decide : 0 < Config.lineQueueMax)⟩) nofun (fun _ => rfl) (by exact id)
    (by rfl))

theorem parkChannel_of_emptied (c : ChanId) (s : State) : OwnWork c (emptied c s) (parkChannel c s) := by
  rw [parkChannel_eq]
  exact OwnWork.trans (.ite (fun _ => linePass_ownWork c _ _) fun _ => .refl c _) (settle_ownWork c _)

theorem parkChannel_ownWork (c : ChanId) (s : State) : OwnWork c s (parkChannel c s) :=
  (emptied_ownWork c s).trans (parkChannel_of_emptied c s)

/-- Nothing of a channel is composed, shipped or asked for. -/
def Channel.Cleared (ch : Channel) : Prop := ch.queue = [] ∧ ch.slot = .empty ∧ ch.shipRequest = false

/-- A parking head's channel is left without line and request. -/
theorem parkChannel_cleared (c : ChanId) (s : State) : ((parkChannel c s).chan c).Cleared := by
  have h := parkChannel_of_emptied c s
  have he := emptied_chan c s
  refine ⟨List.eq_nil_iff_forall_not_mem.2 fun x hx => ?_, h.slot (by rw [he]), h.request (by rw [he]) (by rw [he])⟩
  have hx' := h.queue x hx
  rw [he] at hx'
  cases hx'

theorem parkChannel_requests (c : ChanId) (s : State) :
    ∀ q ∈ ((parkChannel c s).head (headOf c)).queue, q ∈ (s.head (headOf c)).queue := by
  intro q hq
  have hemptied := (parkChannel_of_emptied c s).requests (by rw [emptied_chan]) q hq
  change q ∈ ((withdrawRequest c (withdrawTransit c s)).head (headOf c)).queue at hemptied
  rw [withdrawRequest_head, withdrawTransit_head] at hemptied
  dsimp only at hemptied
  split at hemptied
  · exact List.mem_of_mem_filter hemptied
  · exact hemptied

/-! ## Flushed channels -/

theorem dropLive_ownWork (c : ChanId) (s : State) : OwnWork c s (dropLive c s) := by
  obtain ⟨g, hg⟩ := dropFetches_spec c s.port
  refine .of_heads (dropLive_runs c s) rfl (fun d hd => State.setChan_chan_ne _ _ _ _ hd) (fun x hx => ?_) (fun h => ?_)
    (fun _ => ?_) ?_ (fun y hy => ?_)
  · rw [dropLive, State.setChan_chan_self] at hx; exact hx
  · rw [dropLive, State.setChan_chan_self]; exact h
  · rw [dropLive, State.setChan_chan_self]
  · rw [dropLive, State.setChan_chan_self]
  · rw [show (dropLive c s).port = dropFetches c s.port from rfl, hg] at hy
    exact List.mem_of_mem_filter hy

theorem mem_flushedQueue {ch : Channel} {x : ComposedLine} :
    x ∈ flushedQueue ch ↔ x ∈ ch.queue ∧ ch.slot = .shipped x.ref := by
  unfold flushedQueue
  cases ch.slot with
  | shipped r => simp [eq_comm]
  | empty => simp
  | transit r => simp

/-- A flushed channel, what starves apart. -/
theorem flushed_chan (c : ChanId) (s : State) :
    ∃ p, (flushed c s).chan c = { s.chan c with queue := flushedQueue (s.chan c), slot := flushedSlot (s.chan c).slot,
                                                shipRequest := false, live := none, compose := p } ∧
      ((s.head (headOf c)).returnBand = none → p = flushPlace s c) := by
  have hchan : (dropLive c (withdrawRequest c (withdrawTransit c s))).chan c =
      { s.chan c with shipRequest := false, live := none } := by
    rw [dropLive, State.setChan_chan_self]
    show { (withdrawRequest c (withdrawTransit c s)).chan c with live := none } = _
    rw [withdrawn_chan]
  have hreturn : ((dropLive c (withdrawRequest c (withdrawTransit c s))).head (headOf c)).returnBand =
      (s.head (headOf c)).returnBand := by
    obtain ⟨q, f, a, e⟩ := ((withdrawn_ownWork c s).trans (dropLive_ownWork c _)).head
    rw [e]
  obtain ⟨p, hp, hkeep⟩ := adjustCompose_chan_self c ((dropLive c (withdrawRequest c (withdrawTransit c s))).setChan c
    { (dropLive c (withdrawRequest c (withdrawTransit c s))).chan c with
      queue := flushedQueue ((dropLive c (withdrawRequest c (withdrawTransit c s))).chan c)
      slot := flushedSlot ((dropLive c (withdrawRequest c (withdrawTransit c s))).chan c).slot
      compose := flushPlace s c })
  rw [State.setChan_chan_self] at hp hkeep
  refine ⟨p, ?_, fun hn => hkeep (hreturn.trans hn)⟩
  rw [show (flushed c s).chan c = _ from hp, hchan]
  rfl

theorem flushed_of_withdrawn (c : ChanId) (s : State) :
    OwnWork c (withdrawRequest c (withdrawTransit c s)) (flushed c s) := by
  refine ((dropLive_ownWork c _).trans (.setChan _ _ (fun h => ?_) (fun x hx => (mem_flushedQueue.1 hx).1) (fun h => ?_) (by exact id)
    (by rfl))).trans (adjustCompose_ownWork c _)
  · exact ⟨le_trans (flushedQueue_length _) h.1, fun hd => lt_of_le_of_lt (flushedQueue_length _) (h.2 hd)⟩
  · show flushedSlot _ = .empty
    rw [h]
    rfl

theorem flushed_ownWork (c : ChanId) (s : State) : OwnWork c s (flushed c s) :=
  (withdrawn_ownWork c s).trans (flushed_of_withdrawn c s)

theorem flush_of_flushed (c : ChanId) (s : State) : OwnWork c (flushed c s) (flush c s) := by
  rw [flush_eq]
  exact .ite (fun _ => (starve_ownWork c _).trans (settle_ownWork c _)) fun _ => .refl c _

theorem flush_ownWork (c : ChanId) (s : State) : OwnWork c s (flush c s) :=
  (flushed_ownWork c s).trans (flush_of_flushed c s)

/-- A flushed channel composes nothing and holds at most what was its shipped line. -/
theorem flush_chan (c : ChanId) (s : State) :
    ((flush c s).chan c).live = none ∧
      ∀ x ∈ ((flush c s).chan c).queue, x ∈ (s.chan c).queue ∧ (s.chan c).slot = .shipped x.ref := by
  have h := flush_of_flushed c s
  obtain ⟨p, hp, -⟩ := flushed_chan c s
  refine ⟨h.live (by rw [hp]), fun x hx => ?_⟩
  have hx' := h.queue x hx
  rw [hp] at hx'
  exact mem_flushedQueue.1 hx'

/-! ## Several channels one after another -/

/-- An operation on one channel after another: each channel of the list comes to have what the operation gives it,
and no other channel is touched. -/
theorem foldl_chans_of_invariant {f : State → ChanId → State} {P : ChanId → Channel → Prop} {I : State → Prop}
    {s : State} (l : List ChanId) (hI : I s) (hkeeps : ∀ t, ∀ c ∈ l, I t → t.chan c = s.chan c ∨ P c (t.chan c) → I (f t c))
    (hothers : ∀ t c d, d ≠ c → (f t c).chan d = t.chan d)
    (hself : ∀ t, ∀ c ∈ l, I t → t.chan c = s.chan c ∨ P c (t.chan c) → P c ((f t c).chan c)) :
    I (l.foldl f s) ∧ (∀ c ∈ l, P c ((l.foldl f s).chan c)) ∧ ∀ c, c ∉ l → (l.foldl f s).chan c = s.chan c := by
  suffices h : ∀ (k : List ChanId), (∀ c ∈ k, c ∈ l) → ∀ t, I t → (∀ c, t.chan c = s.chan c ∨ P c (t.chan c)) →
      I (k.foldl f t) ∧ (∀ c, c ∈ k ∨ P c (t.chan c) → P c ((k.foldl f t).chan c)) ∧
        ∀ c, c ∉ k → (k.foldl f t).chan c = t.chan c by
    obtain ⟨hinv, hin, hout⟩ := h l (fun _ hc => hc) s hI fun c => .inl rfl
    exact ⟨hinv, fun c hc => hin c (.inl hc), hout⟩
  intro k
  induction k with
  | nil => exact fun _ t ht _ => ⟨ht, fun c hc => hc.resolve_left List.not_mem_nil, fun c _ => rfl⟩
  | cons b k ih =>
    intro hk t hIt ht
    have hb := hk b List.mem_cons_self
    have hstep : ∀ c, (f t b).chan c = s.chan c ∨ P c ((f t b).chan c) := fun c => by
      by_cases hc : c = b
      · subst hc; exact .inr (hself t c hb hIt (ht c))
      · rw [hothers t b c hc]; exact ht c
    obtain ⟨hinv, hin, hout⟩ := ih (fun c hc => hk c (List.mem_cons_of_mem _ hc)) (f t b) (hkeeps t b hb hIt (ht b)) hstep
    refine ⟨hinv, fun c hc => hin c ?_, fun c hc => ?_⟩
    · by_cases hcb : c = b
      · subst hcb; exact .inr (hself t c hb hIt (ht c))
      · rcases hc with hc | hc
        · exact .inl ((List.mem_cons.1 hc).resolve_left hcb)
        · rw [hothers t b c hcb]; exact .inr hc
    · obtain ⟨hcb, hcl⟩ := not_or.1 (mt List.mem_cons.2 hc)
      exact (hout c hcl).trans (hothers t b c hcb)

theorem foldl_chans {f : State → ChanId → State} {P : ChanId → Channel → Prop} {s : State}
    (hothers : ∀ t c d, d ≠ c → (f t c).chan d = t.chan d)
    (hself : ∀ t c, t.chan c = s.chan c ∨ P c (t.chan c) → P c ((f t c).chan c)) (l : List ChanId) :
    (∀ c ∈ l, P c ((l.foldl f s).chan c)) ∧ ∀ c, c ∉ l → (l.foldl f s).chan c = s.chan c :=
  (foldl_chans_of_invariant (I := fun _ => True) l trivial (fun _ _ _ _ _ => trivial) hothers
    fun t c _ _ => hself t c).2

/-- Work on channels of which none is the head's leaves the head alone. -/
theorem foldl_head_of_others {f : State → ChanId → State} (hf : ∀ t c, OwnWork c t (f t c)) {h : HeadId}
    (l : List ChanId) (hl : ∀ c ∈ l, headOf c ≠ h) (s : State) : (l.foldl f s).head h = s.head h := by
  induction l generalizing s with
  | nil => rfl
  | cons c l ih =>
    refine (ih (fun d hd => hl d (List.mem_cons_of_mem _ hd)) _).trans ?_
    exact (hf s c).otherHeads h fun e => hl c List.mem_cons_self e.symm

/-- What work on channels leaves of every head. -/
theorem foldl_head_fields {f : State → ChanId → State} (hf : ∀ t c, OwnWork c t (f t c)) (l : List ChanId) (s : State)
    (g : HeadId) : ∃ q x a, (l.foldl f s).head g = { s.head g with queue := q, frame := x, again := a } := by
  induction l generalizing s with
  | nil => exact ⟨_, _, _, rfl⟩
  | cons c l ih =>
    obtain ⟨q, x, a, e⟩ := (hf s c).head_fields g
    obtain ⟨q', x', a', e'⟩ := ih (f s c)
    refine ⟨q', x', a', ?_⟩
    rw [List.foldl_cons, e', e]

/-- A head of which nothing is queued, in flight or to be sent again keeps so while its channels are emptied. -/
theorem foldl_parkChannel_idle (l : List ChanId) (h : HeadId) (s : State)
    (hidle : (s.head h).queue = [] ∧ (s.head h).frame = none ∧ (s.head h).again = none) :
    (l.foldl (fun s c => parkChannel c s) s).head h = s.head h := by
  induction l generalizing s with
  | nil => rfl
  | cons c l ih =>
    have hsame : (parkChannel c s).head h = s.head h := by
      by_cases hc : h = headOf c
      · subst hc
        obtain ⟨hqueue, hframe, hagain⟩ := hidle
        have hw := parkChannel_ownWork c s
        obtain ⟨q, x, a, e⟩ := hw.head
        have hq := parkChannel_requests c s
        have hx : MarkedFrom none x := by
          have := hw.frame
          rwa [e, hframe] at this
        have ha := hw.again hagain
        rw [e] at ha hq ⊢
        rw [hqueue] at hq
        have hq' : q = [] := List.eq_nil_iff_forall_not_mem.2 fun y hy => by cases hq y hy
        cases hh : s.head (headOf c)
        simp_all [MarkedFrom.eq_none hx]
      · exact (parkChannel_ownWork c s).otherHeads h hc
    rw [List.foldl_cons, ih _ (by rw [hsame]; exact hidle), hsame]

/-! ## Seams -/

theorem headOf_chanOf (h : HeadId) (r : Row) : headOf (chanOf h r) = h := by
  cases r <;> exact Fin.ext (by simp only [headOf, chanOf]; omega)

theorem headOf_of_mem_headChans {l : Option Layout} {h : HeadId} {c : ChanId} (hc : c ∈ headChans l h) :
    headOf c = h := by
  unfold headChans at hc
  split at hc
  · rcases List.mem_pair.1 hc with rfl | rfl <;> exact headOf_chanOf h _
  · cases hc

/-- A head of the layout, `x`, lies on the given side of the columns of `e`. -/
def OnSide (left : Bool) (l : Option Layout) (e : HeadEntry) (x : HeadId × HeadEntry) : Prop :=
  entryOf l x.1 = some x.2 ∧ if left then x.2.firstColumn < e.firstColumn else e.firstColumn < x.2.firstColumn

/-- A partner lies on one side of its head. -/
theorem partner_onSide {left : Bool} {l : Option Layout} {h : HeadId} {x : HeadId × HeadEntry}
    (hp : partner left l h = some x) : ∃ e, entryOf l h = some e ∧ OnSide left l e x := by
  unfold partner at hp
  split at hp
  · cases hp
  next e he =>
    refine ⟨e, he, ?_⟩
    revert x
    refine List.foldlRecOn (motive := fun best => ∀ {x : HeadId × HeadEntry}, best = some x → OnSide left l e x)
      allHeads _ (fun hn => by cases hn) fun best hbest k _ x hx => ?_
    cases hk : entryOf l k with
    | none =>
      rw [hk] at hx
      exact hbest hx
    | some ek =>
      rw [hk] at hx
      dsimp only at hx
      by_cases hside : ek.plane = e.plane ∧ if left then ek.firstColumn < e.firstColumn else e.firstColumn < ek.firstColumn
      · rw [if_pos hside] at hx
        cases best with
        | none =>
          cases hx
          exact ⟨hk, hside.2⟩
        | some y =>
          dsimp only at hx
          by_cases hnear : if left then y.2.firstColumn < ek.firstColumn else ek.firstColumn < y.2.firstColumn
          · rw [if_pos hnear] at hx
            cases hx
            exact ⟨hk, hside.2⟩
          · rw [if_neg hnear] at hx
            exact hbest hx
      · rw [if_neg hside] at hx
        exact hbest hx

theorem ne_of_mem_partners {l : Option Layout} {h g : HeadId} (hg : g ∈ partners l h) : g ≠ h := by
  have hside : ∀ (left : Bool) (x : HeadId × HeadEntry), partner left l h = some x → x.1 ≠ h := by
    rintro left x hp rfl
    obtain ⟨e, he, hx, hlt⟩ := partner_onSide hp
    cases hx.symm.trans he
    cases left <;> exact absurd hlt (Nat.lt_irrefl _)
  obtain ⟨x, hx, rfl⟩ := List.mem_map.1 hg
  rcases List.mem_append.1 hx with hx | hx
  · exact hside true x (Option.mem_toList.1 hx)
  · exact hside false x (Option.mem_toList.1 hx)

theorem headOf_of_mem_partnerChans {s : State} {h : HeadId} {c : ChanId} (hc : c ∈ partnerChans s h) : headOf c ≠ h := by
  obtain ⟨g, hg, hcg⟩ := List.mem_flatMap.1 hc
  rw [headOf_of_mem_headChans hcg]
  exact ne_of_mem_partners hg

/-- Parking channels one after another clears them and touches no other. -/
theorem foldl_parkChannel_chans (l : List ChanId) (s : State) :
    (∀ c ∈ l, ((l.foldl (fun s c => parkChannel c s) s).chan c).Cleared) ∧
      ∀ c, c ∉ l → (l.foldl (fun s c => parkChannel c s) s).chan c = s.chan c :=
  foldl_chans (P := fun _ => Channel.Cleared) (fun t c d hd => (parkChannel_ownWork c t).others d hd)
    (fun t c _ => parkChannel_cleared c t) l

/-- Flushing channels one after another leaves each with at most its shipped line and touches no other. -/
theorem foldl_flush_chans (l : List ChanId) (s : State) :
    (∀ c ∈ l, ((l.foldl (fun s c => flush c s) s).chan c).live = none ∧
      ∀ x ∈ ((l.foldl (fun s c => flush c s) s).chan c).queue, (s.chan c).slot = .shipped x.ref) ∧
    ∀ c, c ∉ l → (l.foldl (fun s c => flush c s) s).chan c = s.chan c := by
  refine foldl_chans (P := fun c ch => ch.live = none ∧ ∀ x ∈ ch.queue, (s.chan c).slot = .shipped x.ref)
    (fun t c d hd => (flush_ownWork c t).others d hd) (fun t c ht => ?_) l
  obtain ⟨hlive, hqueue⟩ := flush_chan c t
  refine ⟨hlive, fun x hx => ?_⟩
  obtain ⟨hmem, hslot⟩ := hqueue x hx
  rcases ht with ht | ⟨-, ht⟩
  · rwa [ht] at hslot
  · exact ht x hmem

theorem OnlyChanges.chan_eq {ps : List Part} {s t : State} (h : OnlyChanges ps s t) (hp : .chans ∉ ps) (c : ChanId) :
    t.chan c = s.chan c := by rw [State.chan, h .chans hp, State.chan]

theorem OnlyChanges.head_eq {ps : List Part} {s t : State} (h : OnlyChanges ps s t) (hp : .heads ∉ ps) (g : HeadId) :
    t.head g = s.head g := by rw [State.head, h .heads hp, State.head]

theorem OnlyChanges.map_eq {ps : List Part} {s t : State} (h : OnlyChanges ps s t) (hp : .maps ∉ ps) (g : HeadId) :
    t.map g = s.map g := by rw [State.map, h .maps hp, State.map]

/-! ## Parks (R144, R164) -/

theorem park_of_parked {s : State} {h : HeadId} (hs : (s.head h).service = .parked) (linkCause : Bool) :
    park h linkCause s = s := if_pos hs

/-- The state of a parking head's and its partners' channels before HEAD_PARKED is raised. -/
def parkedState (h : HeadId) (linkCause : Bool) (s : State) : State :=
  let s1 := s.setHead h (parkedLink linkCause s.tick (s.head h))
  let s2 := (headChans s1.layout h).foldl (fun s c => parkChannel c s) s1
  (partnerChans s2 h).foldl (fun s c => flush c s) s2

theorem park_of_not_parked {s : State} {h : HeadId} (hs : (s.head h).service ≠ .parked) (linkCause : Bool) :
    park h linkCause s = raise .headParked (parkedState h linkCause s) := if_neg hs

theorem raise_sets_flag (e : Event) (s : State) : (raise e s).ctl.events.getLsbD (eventBit e) = true := by
  rw [raise_ctl]
  show (s.ctl.events ||| eventMask e).getLsbD (eventBit e) = true
  cases e <;> simp [eventMask, eventBit]

/-- A park of a head whose frame is off the link: its controller PARKED, its channels cleared, its partners'
flushed, and everything else but the crossings that follow kept. -/
theorem parkedState_spec {s : State} {h : HeadId} {linkCause : Bool} (hframe : (s.head h).frame = none) :
    (parkedState h linkCause s).head h = parkedLink linkCause s.tick (s.head h) ∧
    (∀ g, g ≠ h → ((parkedState h linkCause s).head g).service = (s.head g).service) ∧
    (∀ c ∈ headChans s.layout h, ((parkedState h linkCause s).chan c).Cleared) ∧
    (∀ c ∈ partnerChans s h, ((parkedState h linkCause s).chan c).live = none ∧
      ∀ x ∈ ((parkedState h linkCause s).chan c).queue, (s.chan c).slot = .shipped x.ref) ∧
    (∀ c, c ∉ headChans s.layout h → c ∉ partnerChans s h → (parkedState h linkCause s).chan c = s.chan c) ∧
    (parkedState h linkCause s).layout = s.layout ∧ (parkedState h linkCause s).posn = s.posn ∧
    (parkedState h linkCause s).tick = s.tick ∧ ∀ g, ((parkedState h linkCause s).map g).sets = (s.map g).sets := by
  unfold parkedState
  generalize hs1 : s.setHead h (parkedLink linkCause s.tick (s.head h)) = s1
  have hhead1 : s1.head h = parkedLink linkCause s.tick (s.head h) := by rw [← hs1]; exact State.setHead_head_self _ _ _
  have hother1 : ∀ g, g ≠ h → s1.head g = s.head g := fun g hg => by rw [← hs1]; exact State.setHead_head_ne _ _ _ _ hg
  have hlayout1 : s1.layout = s.layout := by rw [← hs1]; rfl
  have hchan1 : ∀ c, s1.chan c = s.chan c := fun c => by rw [← hs1]; rfl
  dsimp only
  rw [hlayout1]
  generalize hs2 : (headChans s.layout h).foldl (fun s c => parkChannel c s) s1 = s2
  have hruns2 : Runs s1 s2 := hs2 ▸ Runs.foldl _ (fun s c => parkChannel_runs c s) _ s1
  have hhead2 : s2.head h = s1.head h := by
    rw [← hs2]
    exact foldl_parkChannel_idle _ h s1 (by rw [hhead1]; exact ⟨rfl, hframe, rfl⟩)
  have hservice2 : ∀ g, (s2.head g).service = (s1.head g).service := fun g => by
    obtain ⟨q, x, a, e⟩ := foldl_head_fields (fun t c => parkChannel_ownWork c t) (headChans s.layout h) s1 g
    rw [← hs2, e]
  obtain ⟨hcleared2, hchan2⟩ := foldl_parkChannel_chans (headChans s.layout h) s1
  rw [hs2] at hcleared2 hchan2
  have hpartners : partnerChans s2 h = partnerChans s h := by
    rw [partnerChans, partnerChans, hruns2.layout, hlayout1]
  have hapart : ∀ c, c ∈ partnerChans s h → c ∉ headChans s.layout h := fun c hc hc' =>
    headOf_of_mem_partnerChans hc (headOf_of_mem_headChans hc')
  rw [hpartners]
  generalize hs3 : (partnerChans s h).foldl (fun s c => flush c s) s2 = s3
  have hruns3 : Runs s2 s3 := hs3 ▸ Runs.foldl _ (fun s c => flush_runs c s) _ s2
  have hruns : Runs s1 s3 := hruns2.trans hruns3
  have hhead3 : s3.head h = s2.head h := by
    rw [← hs3]
    exact foldl_head_of_others (fun t c => flush_ownWork c t) _ (fun c hc => headOf_of_mem_partnerChans hc) s2
  obtain ⟨hflushed3, hchan3⟩ := foldl_flush_chans (partnerChans s h) s2
  rw [hs3] at hflushed3 hchan3
  refine ⟨by rw [hhead3, hhead2, hhead1], fun g hg => ?_, fun c hc => ?_, fun c hc => ?_, fun c hc hc' => ?_,
    hruns.layout.trans hlayout1, ?_, ?_, fun g => ?_⟩
  · obtain ⟨q, x, a, e⟩ := foldl_head_fields (fun t c => flush_ownWork c t) (partnerChans s h) s2 g
    rw [hs3] at e
    rw [e, ← hother1 g hg]
    exact hservice2 g
  · rw [hchan3 c fun hc' => hapart c hc' hc]
    exact hcleared2 c hc
  · obtain ⟨hlive, hqueue⟩ := hflushed3 c hc
    rw [hchan2 c (hapart c hc), hchan1 c] at hqueue
    exact ⟨hlive, hqueue⟩
  · rw [hchan3 c hc', hchan2 c hc, hchan1 c]
  · rw [hruns.posn, ← hs1]; rfl
  · rw [hruns.tick, ← hs1]; rfl
  · rw [hruns.sets g, ← hs1]; rfl

/-- A park, told from an earlier state `s` that differs in the parked head's own link and the clock. -/
theorem park_effect {s u : State} {h : HeadId} (linkCause : Bool) (hs : (u.head h).service ≠ .parked)
    (hlink : (u.head h).link = .idle) (hframe : (u.head h).frame = none)
    (hothers : ∀ g, g ≠ h → (u.head g).service = (s.head g).service) (hkept : OnlyChanges [.tick, .heads] s u) :
    ParkEffect s (park h linkCause u) h linkCause ∧ (park h linkCause u).tick = u.tick ∧
      ((park h linkCause u).head h).shadow = (u.head h).shadow := by
  obtain ⟨hhead, hservice, hcleared, hflushed, hchans, hlayout, hposn, htick, hsets⟩ :=
    parkedState_spec (linkCause := linkCause) hframe
  have hl : u.layout = s.layout := hkept .layout (by decide)
  have hc : ∀ c, u.chan c = s.chan c := hkept.chan_eq (by decide)
  have hpartners : partnerChans u h = partnerChans s h := by rw [partnerChans, partnerChans, hl]
  have hflag := raise_sets_flag .headParked (parkedState h linkCause u)
  have hraise := raise_onlyChanges .headParked (parkedState h linkCause u)
  have hheads : ∀ g, (raise .headParked (parkedState h linkCause u)).head g = (parkedState h linkCause u).head g :=
    hraise.head_eq (by decide)
  have hchan : ∀ c, (raise .headParked (parkedState h linkCause u)).chan c = (parkedState h linkCause u).chan c :=
    hraise.chan_eq (by decide)
  have htick' : (raise .headParked (parkedState h linkCause u)).tick = u.tick := (hraise .tick (by decide)).trans htick
  rw [park_of_not_parked hs]
  rw [hl] at hcleared hchans
  rw [hpartners] at hflushed hchans
  refine ⟨{ service := ⟨by rw [hheads, hhead]; rfl, fun g hg => by rw [hheads, hservice g hg, hothers g hg]⟩
            cleared := by rw [hheads, hhead]; exact ⟨rfl, rfl, rfl⟩
            link := ?_
            idle := by rw [hheads, hhead]; exact ⟨rfl, hframe, rfl⟩
            timer := ?_
            emptied := fun c hmem => by rw [hchan]; exact hcleared c hmem
            flushed := fun c hmem => by rw [hchan, ← hc]; exact hflushed c hmem
            others := fun c h1 h2 => by rw [hchan, hchans c h1 h2, hc]
            event := hflag
            kept := ⟨?_, ?_, fun g => ?_⟩ }, htick', ?_⟩
  · rw [hheads, hhead, htick', ← hlink]; rfl
  · rw [hheads, hhead, htick']; rfl
  · exact ((hraise .layout (by decide)).trans hlayout).trans hl
  · exact ((hraise .posn (by decide)).trans hposn).trans (hkept .posn (by decide))
  · rw [hraise.map_eq (by decide), hsets g, hkept.map_eq (by decide)]
  · rw [hheads, hhead]; rfl

theorem answered_onlyChanges (s : State) (h : HeadId) (now : Nat) (lane : List LaneReturn) :
    OnlyChanges [.tick, .heads] s (answered s h now lane) := by
  intro p hp
  cases p with
  | tick => simp at hp
  | heads => simp at hp
  | _ => rfl

/-- A head that parks as its frame is answered. -/
theorem park_answered_effect {s : State} {h : HeadId} (now : Nat) (lane : List LaneReturn) (linkCause : Bool)
    (hs : (s.head h).service ≠ .parked) :
    ParkEffect s (park h linkCause (answered s h now lane)) h linkCause ∧
      (park h linkCause (answered s h now lane)).tick = now ∧
      ((park h linkCause (answered s h now lane)).head h).shadow = (s.head h).shadow := by
  have hhead := answered_head_self s h now lane
  obtain ⟨heffect, htick, hshadow⟩ := park_effect (s := s) (u := answered s h now lane) linkCause
    (by rw [hhead]; exact hs) (by rw [hhead]) (by rw [hhead]) (fun g hg => by rw [answered_head_ne s now lane hg])
    (answered_onlyChanges s h now lane)
  refine ⟨heffect, htick, hshadow.trans ?_⟩
  rw [hhead]

/-! ## A LINE frame that fails (R144, R162 to R164) -/

theorem ackStatus_of_fault {b : Byte} (h : b.extractLsb' 1 2 = 2 ∨ b.extractLsb' 1 2 = 3) :
    ackStatus b = .notReady ∨ ackStatus b = .overtemp := by
  unfold ackStatus
  rcases h with h | h <;> rw [h]
  · exact .inl rfl
  · exact .inr rfl

/-- The outcomes after which a LINE frame that no layout overtook parks its head. -/
theorem lineOutcome_parks {f : Frame} (hs : f.stale = false) (h : HeadId) (row : Row) (r : LineRef) (s : State) :
    lineOutcome h f row r .timeout s = park h true s ∧ lineOutcome h f row r .notReady s = park h false s ∧
      lineOutcome h f row r .overtemp s = park h false s ∧
      (f.withdrawn = false → f.again = true → lineOutcome h f row r .checkError s = park h true s) := by
  refine ⟨?_, ?_, ?_, fun hw hagain => ?_⟩
  · unfold lineOutcome; rw [hs]; rfl
  · unfold lineOutcome; rw [hs]; rfl
  · unfold lineOutcome; rw [hs]; rfl
  · rw [lineOutcome_checkError hs, hw, hagain, if_neg Bool.false_ne_true, if_pos rfl]

/-- Settles O58: each failing outcome is a park of the head, of which `park_effect` tells. -/
theorem failedLineFrameParksHead : Obligations.FailedLineFrameParksHead := by
  intro s h c now since f row r levels lane linkCause hlink hf hbody hfails
  have hpark : ∃ o, exec c s = .next (lineOutcome h f row r o (answered s h now lane)) ∧
      (f.stale = false → lineOutcome h f row r o (answered s h now lane) = park h linkCause (answered s h now lane)) := by
    rcases hfails with ⟨rfl, hno, rfl, rfl, rfl⟩ | ⟨ack, begun, byte, rfl, ha, rfl, rfl, hcause⟩
    · refine ⟨.timeout, ?_, fun hs => (lineOutcome_parks hs h row r _).1⟩
      rw [exec_ackTimeout_of_none hlink hf hno, outcome_of_line hbody]
    · refine ⟨ackStatus byte, by rw [exec_ackReceived_of_answers hlink hf ha, outcome_of_line hbody], fun hs => ?_⟩
      obtain ⟨-, hnotReady, hovertemp, hcheck⟩ :=
        lineOutcome_parks hs h row r (answered s h (max s.tick (begun + 7)) ((s.head h).lane ++ [ack]))
      rcases hcause with ⟨h1, hw, hagain, rfl⟩ | ⟨hfault, rfl⟩
      · rw [(ackStatus_checkError_iff byte).2 h1]
        exact hcheck hw hagain
      · rcases ackStatus_of_fault hfault with h2 | h3
        · rw [h2]; exact hnotReady
        · rw [h3]; exact hovertemp
  obtain ⟨o, hexec, hparks⟩ := hpark
  have hservice : ((answered s h now lane).head h).service = (s.head h).service := by rw [answered_head_self]
  refine ⟨fun hnothing => ?_, fun hs hservice' => ?_⟩
  · rw [hexec]
    cases hs : f.stale with
    | true => rw [lineOutcome_of_stale hs]
    | false =>
      have hparked := hnothing.resolve_left (by rw [hs]; exact Bool.false_ne_true)
      rw [hparks hs, park_of_parked (hservice.trans hparked)]
  · obtain ⟨heffect, htick, hshadow⟩ := park_answered_effect now lane linkCause hservice'
    rw [hparks hs] at hexec
    exact ⟨_, hexec, htick, heffect, fun i => by rw [hshadow]⟩

/-! ## The answers to a configuration (R167 to R171) -/

/-- The entries that a CONFIG frame's answer confirms, in the shadow of the parameters. -/
theorem confirmedShadow_getElem (es : List (Byte × Byte)) (k : Nat) (v : Vector ShadowParam 5) (i : Fin 5) :
    (confirmedShadow es k v)[i] =
      if ∃ e ∈ es.take k, e.1 = BitVec.ofNat 8 (i.val + 1) then { v[i] with confirmed := true } else v[i] := by
  simp [confirmedShadow]

/-- The answered state of a configuration's frame whose first `k` entries are confirmed. -/
def confirmedState (s : State) (h : HeadId) (now : Nat) (lane : List LaneReturn) (es : List (Byte × Byte)) (k : Nat) :
    State :=
  (answered s h now lane).setHead h
    { s.head h with link := .idle, frame := none, lane := lane, shadow := confirmedShadow es k (s.head h).shadow }

theorem confirmedShadow_nil (k : Nat) (v : Vector ShadowParam 5) : confirmedShadow [] k v = v := by
  refine Vector.ext fun i hi => ?_
  have h := confirmedShadow_getElem [] k v ⟨i, hi⟩
  rw [if_neg (by simp)] at h
  exact h

theorem confirmedState_nil (s : State) (h : HeadId) (now : Nat) (lane : List LaneReturn) (k : Nat) :
    confirmedState s h now lane [] k = answered s h now lane := by
  rw [confirmedState, confirmedShadow_nil, answered_setHead]
  rfl

/-- The outcome of a configuration's frame. -/
theorem outcome_of_config {s : State} {h : HeadId} {f : Frame} {es : List (Byte × Byte)} (hs : f.stale = false)
    (hb : f.body = .config es ∨ (f.body = .query ∧ f.forConfig = true ∧ es = [])) (o : FrameOutcome) (n now : Nat)
    (lane : List LaneReturn) :
    outcome h f o n (answered s h now lane) =
      configOutcome h f o (decide ((if o = .timeout then 0 else min n es.length) = es.length))
        (es.drop (if o = .timeout then 0 else min n es.length))
        (confirmedState s h now lane es (if o = .timeout then 0 else min n es.length)) := by
  unfold outcome
  rcases hb with hb | ⟨hb, hconfig, rfl⟩
  · rw [hb]
    dsimp only
    rw [hs, if_neg Bool.false_ne_true, answered_head_self]
    rfl
  · rw [hb]
    dsimp only
    rw [hs, hconfig, if_neg Bool.false_ne_true, if_pos rfl, confirmedState_nil]
    simp only [List.length_nil, Nat.min_zero, ite_self, decide_true, List.drop_nil]

theorem confirmedState_head (s : State) (h : HeadId) (now : Nat) (lane : List LaneReturn) (es : List (Byte × Byte))
    (k : Nat) : (confirmedState s h now lane es k).head h =
      { s.head h with link := .idle, frame := none, lane := lane, shadow := confirmedShadow es k (s.head h).shadow } :=
  State.setHead_head_self _ _ _

theorem confirmedState_head_ne (s : State) {h g : HeadId} (now : Nat) (lane : List LaneReturn) (es : List (Byte × Byte))
    (k : Nat) (hg : g ≠ h) : (confirmedState s h now lane es k).head g = s.head g :=
  (State.setHead_head_ne _ _ _ _ hg).trans (answered_head_ne s now lane hg)

theorem confirmedState_onlyChanges (s : State) (h : HeadId) (now : Nat) (lane : List LaneReturn)
    (es : List (Byte × Byte)) (k : Nat) : OnlyChanges [.tick, .heads] s (confirmedState s h now lane es k) :=
  ((answered_onlyChanges s h now lane).trans (setHead_onlyChanges _ _ _)).mono (by decide)

/-! The outcome of a configuration's frame, by what the answer says. -/
section
variable {h : HeadId} {f : Frame} {u : State} {used : Bool} (hc : (u.head h).config = some used)
include hc

theorem configOutcome_complete (un : List (Byte × Byte)) : configOutcome h f .ready true un u = configSucceeds h u := by
  unfold configOutcome
  rw [hc]
  rfl

theorem configOutcome_short {o : FrameOutcome} {complete : Bool} (ho : o = .checkError ∨ (o = .ready ∧ complete = false))
    (un : List (Byte × Byte)) : configOutcome h f o complete un u =
      if used then park h true u
      else u.setHead h { u.head h with config := some true, again := some (repeatFrame f un) } := by
  unfold configOutcome
  rw [hc]
  rcases ho with rfl | ⟨rfl, rfl⟩ <;> rfl

theorem configOutcome_timeout (complete : Bool) (un : List (Byte × Byte)) :
    configOutcome h f .timeout complete un u = park h true u := by
  unfold configOutcome
  rw [hc]

theorem configOutcome_fault {o : FrameOutcome} (ho : o = .notReady ∨ o = .overtemp) (complete : Bool)
    (un : List (Byte × Byte)) : configOutcome h f o complete un u = park h false u := by
  unfold configOutcome
  rw [hc]
  rcases ho with rfl | rfl <;> rfl

end

theorem ackStatus_ne_timeout (b : Byte) : ackStatus b ≠ .timeout := by
  unfold ackStatus
  split <;> nofun

/-- A return band is kept while its band is open. -/
theorem kept_returnBand_iff (x : Option Nat) (isOpen : Nat → Bool) (b : Nat) :
    (x.bind fun b => if isOpen b then some b else none) = some b ↔ x = some b ∧ isOpen b = true := by
  rw [Option.bind_eq_some_iff]
  constructor
  · rintro ⟨a, ha, hif⟩
    split at hif
    next h => cases hif; exact ⟨ha, h⟩
    next => cases hif
  · rintro ⟨hx, h⟩
    exact ⟨b, hx, if_pos h⟩

/-- Settles O59, by the outcome that the answer gives the configuration. -/
theorem configurationAnswered : Obligations.ConfigurationAnswered := by
  intro s h since f es used hlink hf hs hbody hconfig confirmed fails
  have hconfig' : ∀ now lane k, ((confirmedState s h now lane es k).head h).config = some used := fun now lane k => by
    rw [confirmedState_head]; exact hconfig
  have hconfirmed : ∀ (t : State) k, (t.head h).shadow = confirmedShadow es k (s.head h).shadow → confirmed t k :=
    fun t k ht i => by rw [ht, confirmedShadow_getElem]
  have hparks : ∀ (c : Instr) now lane k linkCause,
      exec c s = .next (park h linkCause (confirmedState s h now lane es k)) → fails c now k linkCause := by
    intro c now lane k linkCause hexec hservice
    have hhead := confirmedState_head s h now lane es k
    obtain ⟨heffect, htick, hshadow⟩ := park_effect (s := s) (u := confirmedState s h now lane es k) linkCause
      (by rw [hhead]; exact hservice) (by rw [hhead]) (by rw [hhead])
      (fun g hg => by rw [confirmedState_head_ne s now lane es k hg]) (confirmedState_onlyChanges s h now lane es k)
    exact ⟨_, hexec, htick, hconfirmed _ _ (by rw [hshadow, hhead]), heffect⟩
  refine ⟨fun hno => hparks _ _ (s.head h).lane _ _ ?_, ?_⟩
  · rw [exec_ackTimeout_of_none hlink hf hno, outcome_of_config hs hbody, configOutcome_timeout (hconfig' _ _ _)]
    rfl
  · intro ack begun byte ha now k status short
    have hexec : exec (.ackReceived h ack) s = .next (configOutcome h f (ackStatus byte) (decide (k = es.length))
        (es.drop k) (confirmedState s h now ((s.head h).lane ++ [ack]) es k)) := by
      rw [exec_ackReceived_of_answers hlink hf ha, outcome_of_config hs hbody, if_neg (ackStatus_ne_timeout byte)]
      rfl
    have hhead := confirmedState_head s h now ((s.head h).lane ++ [ack]) es k
    have hc := hconfig' now ((s.head h).lane ++ [ack]) k
    have hne : ∀ g, g ≠ h → (confirmedState s h now ((s.head h).lane ++ [ack]) es k).head g = s.head g :=
      fun g hg => confirmedState_head_ne s now _ es k hg
    have honly := confirmedState_onlyChanges s h now ((s.head h).lane ++ [ack]) es k
    generalize hu : confirmedState s h now ((s.head h).lane ++ [ack]) es k = u at hexec hhead hc hne honly
    have hafter : ∀ x : HeadLink, OnlyChanges [.tick, .heads] s (u.setHead h x) := fun x =>
      (honly.trans (setHead_onlyChanges u h x)).mono (by decide)
    have hothers : ∀ (x : HeadLink) g, g ≠ h → (u.setHead h x).head g = s.head g := fun x g hg =>
      (State.setHead_head_ne _ _ _ _ hg).trans (hne g hg)
    have htick : u.tick = now := by rw [← hu]; rfl
    have hshort : short → ackStatus byte = .checkError ∨ (ackStatus byte = .ready ∧ decide (k = es.length) = false) := by
      rintro (h1 | ⟨h0, hlt⟩)
      · exact .inl ((ackStatus_checkError_iff byte).2 h1)
      · exact .inr ⟨(ackStatus_ready_iff byte).2 h0, decide_eq_false (Nat.ne_of_lt hlt)⟩
    refine ⟨fun h0 hk => ?_, fun hs' hused => ?_, fun hs' hused => ?_, fun hfault => ?_⟩
    · rw [(ackStatus_ready_iff byte).2 h0, decide_eq_true hk, configOutcome_complete hc] at hexec
      have hself : (configSucceeds h u).head h = _ := State.setHead_head_self _ _ _
      have hband : ∀ b, findBand u b = findBand s b := fun b => by rw [findBand, honly .win (by decide), findBand]
      refine ⟨_, hexec, htick, hconfirmed _ _ (by rw [hself, hhead]), by rw [hself], by rw [hself],
        by rw [hself, hhead], by rw [hself, hhead], by rw [hself, hhead], fun b => ?_, hothers _, hafter _⟩
      rw [hself, hhead]
      simp only [hband]
      exact kept_returnBand_iff _ _ b
    · rw [configOutcome_short hc (hshort hs'), hused, if_neg Bool.false_ne_true] at hexec
      have hself : (u.setHead h { u.head h with config := some true, again := some (repeatFrame f (es.drop k)) }).head h =
        _ := State.setHead_head_self _ _ _
      exact ⟨_, hexec, htick, hconfirmed _ _ (by rw [hself, hhead]), by rw [hself, hhead], by rw [hself],
        by rw [hself, hhead], by rw [hself, hhead],
        ⟨repeatFrame f (es.drop k), by rw [hself], by simp [repeatFrame, List.isEmpty_iff]⟩, hothers _, hafter _⟩
    · rw [configOutcome_short hc (hshort hs'), if_pos hused, ← hu] at hexec
      exact hparks _ _ _ _ _ hexec
    · rw [configOutcome_fault hc (ackStatus_of_fault hfault), ← hu] at hexec
      exact hparks _ _ _ _ _ hexec

end Sys2Proof.Machine

/-! PROOFS. Frames: their bits on the lanes, and what begins on an IDLE link (chapter 8 and 10.7). -/

namespace Sys2Proof.Machine

/-! ## The bits of a frame (R153, R154 to R156) -/

theorem length_bitsOf (n v : Nat) : (bitsOf n v).length = n := by
  induction n generalizing v with
  | zero => rfl
  | succ n ih => rw [bitsOf, List.length_cons, ih]

theorem length_flatMap_const {α β : Type} (f : α → List β) (n : Nat) (hf : ∀ a, (f a).length = n) (l : List α) :
    (l.flatMap f).length = n * l.length := by
  induction l with
  | nil => rfl
  | cons a l ih => rw [List.flatMap_cons, List.length_append, hf, ih, List.length_cons]; ring

theorem length_frameData (b : FrameBody) :
    (frameData b).length = match b with
      | .line _ _ levels => 16 + 2 * levels.length
      | .config es => 16 + 24 * es.length
      | .query => 16 := by
  cases b with
  | line row r levels =>
    unfold frameData
    rw [List.length_append, length_flatMap_const _ 2 fun l => length_bitsOf 2 _]
    simp only [List.length_append, length_bitsOf]
  | config es =>
    rw [frameData, List.length_append,
      length_flatMap_const _ 24 fun e => by simp only [List.length_append, length_bitsOf]]
    simp only [List.length_append, length_bitsOf]
  | query => simp only [frameData, List.length_append, length_bitsOf]

/-- A frame has as many bits as R153's table says. -/
theorem length_frameBits (b : FrameBody) : (frameBits b).length = frameLength b := by
  have hcrc : ∀ c, (crcBits c).length = 16 := fun c => by rw [crcBits, List.length_reverse, length_bitsOf]
  cases b with
  | line row r levels =>
    rw [frameBits, List.length_append, hcrc, length_frameData, frameLength]
    dsimp only
    omega
  | config es => rw [frameBits, length_frameData, frameLength]
  | query => rw [frameBits, List.length_append, hcrc, length_frameData, frameLength]

theorem dataPin_of_sending {s : State} {h : HeadId} {e : Nat} {f : Frame} (hlink : (s.head h).link = .sending e)
    (hf : (s.head h).frame = some f) (lane : Nat) : dataPin s h lane = laneLevel f lane s.tick := by
  unfold dataPin
  rw [hlink, hf]

/-- In the tick `i / lanes` the lane `i % lanes` carries bit `i`. -/
theorem laneLevel_bit (f : Frame) (i : Nat) (hl : 0 < f.lanes) :
    laneLevel f (i % f.lanes) (f.begun + i / f.lanes) = (frameBits f.body).getD i false := by
  rw [laneLevel, if_pos (Nat.mod_lt _ hl), Nat.add_sub_cancel_left, Nat.div_add_mod']

theorem dataPin_of_not_sending {s : State} {h : HeadId} (hno : ∀ e, (s.head h).link ≠ .sending e) (lane : Nat) :
    dataPin s h lane = false := by
  unfold dataPin
  split
  next e f hlink hf => exact absurd hlink (hno e)
  · rfl

/-! ## Beginnings (R160, R169) -/

/-- The head on whose link a frame begins. -/
theorem beginFrame_head (h : HeadId) (f : Frame) (s : State) :
    ((beginFrame h f s).head h).link = .sending (s.tick + (frameLength f.body + f.lanes - 1) / f.lanes) ∧
    ((beginFrame h f s).head h).frame = some f ∧ ((beginFrame h f s).head h).again = none ∧
    ((beginFrame h f s).head h).service = (s.head h).service ∧
    ((beginFrame h f s).head h).config = (s.head h).config ∧ ((beginFrame h f s).head h).queue = (s.head h).queue ∧
    ((beginFrame h f s).head h).shadow = match f.body with
      | .config es => sentShadow es (s.head h).shadow
      | .line _ _ _ | .query => (s.head h).shadow := by
  have hself : (beginFrame h f s).head h = _ := State.setHead_head_self _ _ _
  rw [hself]
  exact ⟨rfl, rfl, rfl, rfl, rfl, rfl, rfl⟩

theorem beginFrame_head_ne (h : HeadId) (f : Frame) (s : State) {g : HeadId} (hg : g ≠ h) :
    (beginFrame h f s).head g = s.head g := State.setHead_head_ne _ _ _ _ hg

theorem beginFrame_onlyChanges (h : HeadId) (f : Frame) (s : State) : OnlyChanges [.heads] s (beginFrame h f s) :=
  setHead_onlyChanges _ _ _

/-- The shadow entries of the parameters that a CONFIG frame carries. -/
theorem sentShadow_configEntries (e : HeadEntry) (due : List (Fin 5)) (v : Vector ShadowParam 5) (i : Fin 5) :
    (sentShadow (configEntries e due) v)[i] =
      if i ∈ due then { value := paramValue e i, confirmed := false } else v[i] := by
  have hid : ∀ j : Fin 5, BitVec.ofNat 8 (j.val + 1) = BitVec.ofNat 8 (i.val + 1) ↔ j = i := by
    revert i
    decide
  have hfind : (configEntries e due).find? (fun x => x.1 == BitVec.ofNat 8 (i.val + 1)) =
      (due.find? (· == i)).map fun j => (BitVec.ofNat 8 (j.val + 1), paramValue e j) := by
    rw [configEntries, List.find?_map]
    refine congrArg (Option.map _) (congrArg (List.find? · due) (funext fun j => Bool.eq_iff_iff.2 ?_))
    rw [Function.comp_apply, beq_iff_eq, beq_iff_eq]
    exact hid j
  have hget : (sentShadow (configEntries e due) v)[i] =
      match (configEntries e due).find? (fun x => x.1 == BitVec.ofNat 8 (i.val + 1)) with
      | some e => { value := e.2, confirmed := false }
      | none => v[i] := getElem_tabulate _ _ _
  rw [hget, hfind]
  by_cases hi : i ∈ due
  · rw [if_pos hi]
    cases hj : due.find? (· == i) with
    | none => exact absurd (List.find?_eq_none.1 hj i hi) (by simp)
    | some j =>
      have hji : j = i := by simpa using List.find?_some hj
      subst hji
      rfl
  · rw [if_neg hi, List.find?_eq_none.2 fun j hj => ?_]
    · rfl
    · rw [beq_iff_eq]
      rintro rfl
      exact hi hj

theorem shipKind_chanOf (h : HeadId) (row : Row) :
    shipKind (chanOf h row) = match row with
      | .a => .lineA
      | .b => .lineB := by
  cases row
  · have : (2 * h.val) % 2 = 0 := by omega
    simp [shipKind, rowOf, chanOf]
  · have : (2 * h.val + 1) % 2 = 1 := by omega
    simp [shipKind, rowOf, chanOf]

/-- The state with a request taken off its head's queue. -/
def takenOff (h : HeadId) (q : LinkRequest) (s : State) : State :=
  s.setHead h { s.head h with queue := removeKind q.kind (s.head h).queue }

theorem takenOff_head (h : HeadId) (q : LinkRequest) (s : State) :
    (takenOff h q s).head h = { s.head h with queue := removeKind q.kind (s.head h).queue } :=
  State.setHead_head_self _ _ _

theorem beginRequest_ship {h : HeadId} {q : LinkRequest} {row : Row} (hq : q.kind = shipKind (chanOf h row)) (s : State) :
    beginRequest h q s = beginLine h row (takenOff h q s) := by
  rw [shipKind_chanOf] at hq
  unfold beginRequest takenOff
  cases row <;> simp only [hq]

theorem beginRequest_other {h : HeadId} {q : LinkRequest} (hq : q.kind = .config ∨ q.kind = .query) (s : State) :
    beginRequest h q s = beginFrame h
      (if (s.head h).config.isSome then configFrame (takenOff h q s) h else queryFrame (takenOff h q s) h)
      (takenOff h q s) := by
  have hconfig : ((takenOff h q s).head h).config = (s.head h).config := by rw [takenOff_head]
  rw [← hconfig]
  unfold beginRequest takenOff
  rcases hq with hq | hq <;> simp only [hq]

theorem dueParams_takenOff (h : HeadId) (q : LinkRequest) (s : State) :
    dueParams (takenOff h q s) h = dueParams s h := by
  unfold dueParams
  rw [takenOff_head]
  rfl

/-- The frame of a configuration with nothing due. -/
theorem configFrame_of_not_due {s : State} {h : HeadId} (hd : dueParams s h = []) :
    configFrame s h = { body := .query, lanes := lanesOf s h, begun := s.tick, withdrawn := false, again := false,
                        forConfig := true, stale := false } := by
  unfold configFrame
  rw [hd]
  cases entryOf s.layout h <;> rfl

theorem configFrame_of_due {s : State} {h : HeadId} {e : HeadEntry} (he : entryOf s.layout h = some e)
    (hd : dueParams s h ≠ []) :
    configFrame s h = { body := .config (configEntries e (dueParams s h)), lanes := lanesOf s h, begun := s.tick,
                        withdrawn := false, again := false, forConfig := true, stale := false } := by
  unfold configFrame
  rw [he]
  dsimp only
  rw [if_neg (by rwa [List.isEmpty_iff])]

theorem exec_frameBegin_again {s : State} {h : HeadId} {f : Frame} (hlink : (s.head h).link = .idle)
    (ha : (s.head h).again = some f) :
    exec (.frameBegin h) s = .next (beginFrame h { f with begun := s.tick, lanes := lanesOf s h } s) := by
  show execFrameBegin h s = _
  unfold execFrameBegin
  dsimp only
  rw [hlink, ha]

theorem exec_frameBegin_request {s : State} {h : HeadId} {q : LinkRequest} (hlink : (s.head h).link = .idle)
    (ha : (s.head h).again = none) (hq : (s.head h).queue.find? (servable s) = some q) :
    exec (.frameBegin h) s = .next (beginRequest h q s) := by
  show execFrameBegin h s = _
  unfold execFrameBegin
  dsimp only
  rw [hlink, ha]
  dsimp only
  rw [hq]

/-- Settles O55: the bits by R153's arithmetic, the frames by what waits on the link. -/
theorem frameBegins : Obligations.FrameBegins := by
  refine ⟨length_frameBits, fun s h e f hlink hf => ⟨fun i _ hl htick => ?_, fun lane hlane => ?_⟩,
    fun s h lane hno => dataPin_of_not_sending hno lane, ?_⟩
  · rw [dataPin_of_sending hlink hf, htick, laneLevel_bit f i hl]
  · rw [dataPin_of_sending hlink hf, laneLevel, if_neg (Nat.not_lt.2 hlane)]
  intro s h hlink lanes sends
  refine ⟨fun f ha => ?_, ?_⟩
  · obtain ⟨hsend, hframe, hagain, hservice, hconfig, hqueue, -⟩ :=
      beginFrame_head h { f with begun := s.tick, lanes := lanesOf s h } s
    exact ⟨_, exec_frameBegin_again hlink ha, ⟨hsend, hframe, hagain, fun g hg => beginFrame_head_ne h _ s hg, hservice,
      hconfig⟩, hqueue, beginFrame_onlyChanges h _ s⟩
  · intro q ha hq fresh
    have hexec := exec_frameBegin_request hlink ha hq
    have hoff := takenOff_head h q s
    have hoff_ne : ∀ g, g ≠ h → (takenOff h q s).head g = s.head g := fun g hg => State.setHead_head_ne _ _ _ _ hg
    refine ⟨fun row x hkind hx => ?_, fun hkind => ?_⟩
    · rw [beginRequest_ship hkind] at hexec
      have hnext : nextComposed ((takenOff h q s).chan (chanOf h row)) = some x := hx
      have hline : beginLine h row (takenOff h q s) = beginFrame h (fresh (.line row x.ref x.levels) false)
          ((takenOff h q s).setChan (chanOf h row)
            { s.chan (chanOf h row) with slot := .transit x.ref, shipRequest := false }) := by
        unfold beginLine
        dsimp only
        rw [hnext]
        rfl
      rw [hline] at hexec
      generalize hu : (takenOff h q s).setChan (chanOf h row)
        { s.chan (chanOf h row) with slot := .transit x.ref, shipRequest := false } = u at hexec
      have hchan : u.chan (chanOf h row) = { s.chan (chanOf h row) with slot := .transit x.ref, shipRequest := false } := by
        rw [← hu]; exact State.setChan_chan_self _ _ _
      have hchan_ne : ∀ d, d ≠ chanOf h row → u.chan d = s.chan d := fun d hd => by
        rw [← hu]; exact State.setChan_chan_ne _ _ _ _ hd
      have honly : OnlyChanges [.heads, .chans] s u := by
        rw [← hu]; exact (setHead_onlyChanges _ _ _).trans (setChan_onlyChanges _ _ _)
      have hhead : u.head h = { s.head h with queue := removeKind q.kind (s.head h).queue } := by rw [← hu]; exact hoff
      have hhead_ne : ∀ g, g ≠ h → u.head g = s.head g := fun g hg => by rw [← hu]; exact hoff_ne g hg
      have htick : u.tick = s.tick := honly .tick (by decide)
      have hbegun := beginFrame_onlyChanges h (fresh (.line row x.ref x.levels) false) u
      obtain ⟨hsend, hframe, hagain, hservice, hconfig, hqueue, hshadow⟩ :=
        beginFrame_head h (fresh (.line row x.ref x.levels) false) u
      rw [hhead] at hservice hconfig hqueue hshadow
      rw [htick] at hsend
      exact ⟨_, hexec, ⟨hsend, hframe, hagain, fun g hg => (beginFrame_head_ne h _ u hg).trans (hhead_ne g hg), hservice,
        hconfig⟩, hqueue, hshadow, (hbegun.chan_eq (by decide) _).trans hchan,
        fun d hd => (hbegun.chan_eq (by decide) d).trans (hchan_ne d hd), (honly.trans hbegun).mono (by decide)⟩
    · rw [beginRequest_other hkind] at hexec
      generalize hf : (if (s.head h).config.isSome then configFrame (takenOff h q s) h else queryFrame (takenOff h q s) h)
        = f at hexec
      obtain ⟨hsend, hframe, hagain, hservice, hconfig, hqueue, hshadow⟩ := beginFrame_head h f (takenOff h q s)
      rw [hoff] at hservice hconfig hqueue hshadow
      have hlanes : f.lanes = lanes := by
        rw [← hf]
        split <;> rfl
      have hsends : sends (beginFrame h f (takenOff h q s)) f := by
        refine ⟨?_, hframe, hagain, fun g hg => (beginFrame_head_ne h f _ hg).trans (hoff_ne g hg), hservice, hconfig⟩
        rw [hsend, hlanes]
        rfl
      refine ⟨_, hexec, hqueue, (setHead_onlyChanges _ _ _).trans_same (beginFrame_onlyChanges h f _), fun hno => ?_,
        fun hsome hdue => ?_, fun e hsome he hdue => ?_⟩
      · have hf' : f = fresh .query false := by
          rw [← hf, hno]
          rfl
        rw [hf'] at hsends hshadow ⊢
        exact ⟨hsends, hshadow⟩
      · have hf' : f = fresh .query true := by
          rw [← hf, if_pos (Option.isSome_iff_ne_none.2 hsome),
            configFrame_of_not_due ((dueParams_takenOff h q s).trans hdue)]
          rfl
        rw [hf'] at hsends hshadow ⊢
        exact ⟨hsends, hshadow⟩
      · have hdue' : dueParams (takenOff h q s) h ≠ [] := by rwa [dueParams_takenOff]
        have hf' : f = fresh (.config (configEntries e (dueParams s h))) true := by
          rw [← hf, if_pos (Option.isSome_iff_ne_none.2 hsome), configFrame_of_due (s := takenOff h q s) he hdue',
            dueParams_takenOff]
          rfl
        rw [hf'] at hsends hshadow ⊢
        refine ⟨hsends, fun i => ?_⟩
        rw [hshadow]
        exact sentShadow_configEntries e (dueParams s h) _ i

end Sys2Proof.Machine

/-! PROOFS. Compensation, fetches and composed lines (chapter 6). -/

namespace Sys2Proof.Machine

/-! ## Compensation (R120 to R122) -/

/-- Writing one entry of a list moves its sum by the difference. -/
theorem sum_set_add {l : List Nat} {i : Nat} (hi : i < l.length) (a : Nat) :
    (l.set i a).sum + l.getD i 0 = l.sum + a := by
  induction l generalizing i with
  | nil => cases hi
  | cons x l ih =>
    cases i with
    | zero => simp only [List.set_cons_zero, List.sum_cons, List.getD_cons_zero]; omega
    | succ i =>
      have := ih (Nat.lt_of_succ_lt_succ hi)
      simp only [List.set_cons_succ, List.sum_cons, List.getD_cons_succ]
      omega

theorem getD_set (l : List Nat) (i j a : Nat) :
    (l.set i a).getD j 0 = if i = j ∧ j < l.length then a else l.getD j 0 := by
  simp only [List.getD_eq_getElem?_getD, List.getElem?_set]
  by_cases hij : i = j
  · subst hij
    by_cases hi : i < l.length <;> simp [hi]
  · simp [hij]

theorem addLoss_levels (l : LineLevels) (i loss : Nat) : (addLoss l i loss).levels = l.levels := by
  unfold addLoss
  split <;> rfl

theorem addLoss_total (l : LineLevels) (i loss : Nat) :
    (addLoss l i loss).lostA + (addLoss l i loss).lostB = l.lostA + l.lostB + loss := by
  unfold addLoss
  split
  · exact Nat.add_right_comm _ _ _
  · exact (Nat.add_assoc _ _ _).symm

/-- A nozzle of an even index loses into row A alone, one of an odd index into row B alone. -/
theorem addLoss_rows (l : LineLevels) (i loss : Nat) :
    (i % 2 = 0 → (addLoss l i loss).lostB = l.lostB) ∧ (i % 2 = 1 → (addLoss l i loss).lostA = l.lostA) := by
  refine ⟨fun h => ?_, fun h => ?_⟩
  · rw [addLoss, if_pos h]
  · rw [addLoss, if_neg (by omega)]

/-- The neighbour that takes a level is next to the dead nozzle, alive, in range and owned. -/
theorem chosenNeighbour_spec {dead : List Nat} {owned : List Bool} {l : LineLevels} {i k : Nat}
    (h : chosenNeighbour dead owned l i = some k) :
    (k + 1 = i ∨ k = i + 1) ∧ k < l.levels.length ∧ k ∉ dead ∧ owned.getD k false = true := by
  have hside : (k + 1 = i ∨ k = i + 1) ∧ candidate l.levels.length dead owned k = true := by
    unfold chosenNeighbour at h
    dsimp only at h
    generalize hleft : (decide (0 < i) && candidate l.levels.length dead owned (i - 1)) = left at h
    generalize hright : candidate l.levels.length dead owned (i + 1) = right at h
    have htakeLeft : left = true → k = i - 1 → (k + 1 = i ∨ k = i + 1) ∧ candidate l.levels.length dead owned k = true := by
      rintro rfl rfl
      rw [Bool.and_eq_true, decide_eq_true_eq] at hleft
      exact ⟨.inl (by omega), hleft.2⟩
    have htakeRight : right = true → k = i + 1 → (k + 1 = i ∨ k = i + 1) ∧ candidate l.levels.length dead owned k = true := by
      rintro rfl rfl
      exact ⟨.inr rfl, hright⟩
    cases left <;> cases right <;> simp only [Bool.false_and, Bool.true_and, Bool.and_false, if_true, if_false,
      Bool.false_eq_true, Option.some.injEq] at h
    · cases h
    · exact htakeRight rfl h.symm
    · exact htakeLeft rfl h.symm
    · split at h
      · exact htakeRight rfl (Option.some.inj h).symm
      · exact htakeLeft rfl (Option.some.inj h).symm
  obtain ⟨hnext, hcandidate⟩ := hside
  simp only [candidate, Bool.and_eq_true, decide_eq_true_eq, Bool.not_eq_true', List.contains_eq_mem,
    decide_eq_false_iff_not] at hcandidate
  exact ⟨hnext, hcandidate.1.1, hcandidate.1.2, hcandidate.2⟩

/-- What holds of the levels in the course of compensation: their number and bound, what is lost by row, and that
nothing is made. -/
structure Balanced (n : Nat) (owned : List Bool) (dead : List Nat) (total : Nat) (l : LineLevels) : Prop where
  length : l.levels.length = n
  bound : ∀ i, levelAt l i ≤ 3
  total : l.levels.sum + (l.lostA + l.lostB) = total
  unowned : ∀ i, owned.getD i false = false → levelAt l i = 0
  evenRow : (∀ i ∈ dead, i % 2 = 0) → l.lostB = 0
  oddRow : (∀ i ∈ dead, i % 2 = 1) → l.lostA = 0

/-- One dead nozzle's compensation: it is at level 0, and only a neighbour that is alive may have gained. -/
theorem compensate_levelAt {n : Nat} {owned : List Bool} {dead : List Nat} {total : Nat} {l : LineLevels} {i : Nat}
    (h : Balanced n owned dead total l) (hi : i < n) (j : Nat) :
    (j = i → levelAt (compensate dead owned l i) j = 0) ∧
    (j ≠ i → j ∈ dead ∨ (j + 1 ≠ i ∧ j ≠ i + 1) → levelAt (compensate dead owned l i) j = levelAt l j) := by
  unfold compensate
  dsimp only
  split
  next hv =>
    split
    next k hk =>
      obtain ⟨hnext, hkn, halive, howned⟩ := chosenNeighbour_spec hk
      simp only [levelAt, addLoss_levels, getD_set, List.length_set, h.length]
      refine ⟨fun hj => by rw [if_pos ⟨hj.symm, hj ▸ hi⟩], fun hj hother => ?_⟩
      rw [if_neg fun e => hj e.1.symm, if_neg]
      rintro ⟨rfl, -⟩
      rcases hother with hdead | ⟨h1, h2⟩
      · exact halive hdead
      · exact hnext.elim h1 h2
    next =>
      simp only [levelAt, addLoss_levels, getD_set, h.length]
      exact ⟨fun hj => by rw [if_pos ⟨hj.symm, hj ▸ hi⟩], fun hj _ => by rw [if_neg fun e => hj e.1.symm]⟩
  next hv =>
    refine ⟨fun hj => ?_, fun _ _ => rfl⟩
    subst hj
    rw [Bool.and_eq_true, decide_eq_true_eq, not_and] at hv
    cases ho : owned.getD j false with
    | false => exact h.unowned j ho
    | true => exact Nat.eq_zero_of_not_pos (hv ho)

theorem compensate_balanced {n : Nat} {owned : List Bool} {dead : List Nat} {total : Nat} {l : LineLevels} {i : Nat}
    (h : Balanced n owned dead total l) (hi : i < n) (hdead : i ∈ dead) :
    Balanced n owned dead total (compensate dead owned l i) := by
  have hrows : ∀ l1 loss, l1.lostA = l.lostA → l1.lostB = l.lostB →
      ((∀ i ∈ dead, i % 2 = 0) → (addLoss l1 i loss).lostB = 0) ∧
      ((∀ i ∈ dead, i % 2 = 1) → (addLoss l1 i loss).lostA = 0) := fun l1 loss hA hB =>
    ⟨fun hall => ((addLoss_rows l1 i loss).1 (hall i hdead)).trans (hB.trans (h.evenRow hall)),
      fun hall => ((addLoss_rows l1 i loss).2 (hall i hdead)).trans (hA.trans (h.oddRow hall))⟩
  have hbalance := h.total
  have hil : i < l.levels.length := h.length.symm ▸ hi
  unfold compensate
  dsimp only
  split
  next hv =>
    split
    next k hk =>
      obtain ⟨hnext, hkn, halive, howned⟩ := chosenNeighbour_spec hk
      have hki : k ≠ i := fun e => halive (e ▸ hdead)
      have hsum1 := sum_set_add hkn (min 3 (levelAt l k + levelAt l i))
      have hsum2 := sum_set_add (l := l.levels.set k (min 3 (levelAt l k + levelAt l i))) (i := i)
        (by rwa [List.length_set]) 0
      rw [getD_set, if_neg fun e => hki e.1] at hsum2
      have hk' : l.levels.getD k 0 = levelAt l k := rfl
      have hi' : l.levels.getD i 0 = levelAt l i := rfl
      obtain ⟨heven, hodd⟩ := hrows { l with levels := (l.levels.set k (min 3 (levelAt l k + levelAt l i))).set i 0 }
        (levelAt l k + levelAt l i - 3) rfl rfl
      refine ⟨?_, fun j => ?_, ?_, fun j hj => ?_, heven, hodd⟩
      · rw [addLoss_levels, List.length_set, List.length_set, h.length]
      · simp only [levelAt, addLoss_levels, getD_set]
        split
        · exact Nat.zero_le 3
        · split
          · exact Nat.min_le_left _ _
          · exact h.bound j
      · rw [addLoss_levels, addLoss_total]
        dsimp only
        omega
      · simp only [levelAt, addLoss_levels, getD_set]
        split
        · rfl
        · rw [if_neg]
          · exact h.unowned j hj
          · rintro ⟨rfl, -⟩
            rw [howned] at hj
            cases hj
    next =>
      have hsum := sum_set_add hil 0
      have hi' : l.levels.getD i 0 = levelAt l i := rfl
      obtain ⟨heven, hodd⟩ := hrows { l with levels := l.levels.set i 0 } (levelAt l i) rfl rfl
      refine ⟨?_, fun j => ?_, ?_, fun j hj => ?_, heven, hodd⟩
      · rw [addLoss_levels, List.length_set, h.length]
      · simp only [levelAt, addLoss_levels, getD_set]
        split
        · exact Nat.zero_le 3
        · exact h.bound j
      · rw [addLoss_levels, addLoss_total]
        dsimp only
        omega
      · simp only [levelAt, addLoss_levels, getD_set]
        split
        · rfl
        · exact h.unowned j hj
  next => exact h

/-- The dead nozzles one after another. -/
theorem foldl_compensate {n : Nat} {owned : List Bool} {dead : List Nat} {total : Nat} (is : List Nat)
    (his : ∀ i ∈ is, i < n ∧ i ∈ dead) (l : LineLevels) (h : Balanced n owned dead total l) :
    Balanced n owned dead total (is.foldl (compensate dead owned) l) ∧
    (∀ j ∈ dead, j ∈ is ∨ levelAt l j = 0 → levelAt (is.foldl (compensate dead owned) l) j = 0) ∧
    ∀ j, j ∉ dead → j + 1 ∉ dead → (∀ k ∈ dead, j ≠ k + 1) →
      levelAt (is.foldl (compensate dead owned) l) j = levelAt l j := by
  induction is generalizing l with
  | nil => exact ⟨h, fun j _ hj => hj.resolve_left List.not_mem_nil, fun _ _ _ _ => rfl⟩
  | cons i is ih =>
    obtain ⟨hi, hdead⟩ := his i List.mem_cons_self
    obtain ⟨hbal, hzero, hkeep⟩ := ih (fun k hk => his k (List.mem_cons_of_mem _ hk)) _ (compensate_balanced h hi hdead)
    refine ⟨hbal, fun j hj hwas => hzero j hj ?_, fun j h1 h2 h3 => (hkeep j h1 h2 h3).trans ?_⟩
    · obtain ⟨hself, hother⟩ := compensate_levelAt h hi j
      by_cases hji : j = i
      · exact .inr (hself hji)
      · rcases hwas with hmem | hlevel
        · exact .inl ((List.mem_cons.1 hmem).resolve_left hji)
        · exact .inr ((hother hji (.inl hj)).trans hlevel)
    · exact (compensate_levelAt h hi j).2 (fun e => h1 (e ▸ hdead)) (.inr ⟨fun e => h2 (e ▸ hdead), h3 i hdead⟩)

/-- The source levels of the owned columns. -/
def startLevels (source : List Nat) (owned : List Bool) : List Nat :=
  (source.zip owned).map fun p => if p.2 then p.1 else 0

theorem startLevels_getD (source : List Nat) (owned : List Bool) (h : owned.length = source.length) (i : Nat) :
    (startLevels source owned).getD i 0 = if owned.getD i false then source.getD i 0 else 0 := by
  induction source generalizing owned i with
  | nil =>
    rw [List.length_eq_zero_iff.1 h]
    rfl
  | cons v source ih =>
    cases owned with
    | nil => cases h
    | cons o owned =>
      cases i with
      | zero => rfl
      | succ i => exact ih owned (Nat.succ.inj h) i

/-- Settles O52, dead nozzle by dead nozzle. -/
theorem compensationKeepsLevels : Obligations.CompensationKeepsLevels := by
  intro source owned dead hlen hle out start
  have hstart : Balanced source.length owned dead start.sum { levels := start, lostA := 0, lostB := 0 } := by
    refine ⟨?_, fun i => ?_, by simp, fun i hi => ?_, fun _ => rfl, fun _ => rfl⟩
    · simp [start, hlen]
    · show (startLevels source owned).getD i 0 ≤ 3
      rw [startLevels_getD source owned hlen]
      split
      · rw [List.getD_eq_getElem?_getD]
        cases hv : source[i]? with
        | none => exact Nat.zero_le 3
        | some v => exact hle v (List.mem_of_getElem? hv)
      · exact Nat.zero_le 3
    · show (startLevels source owned).getD i 0 = 0
      rw [startLevels_getD source owned hlen, hi]
      rfl
  obtain ⟨hbal, hzero, hkeep⟩ := foldl_compensate ((List.range source.length).filter fun i => dead.contains i)
    (fun i hi => by simpa using hi) _ hstart
  change Balanced source.length owned dead start.sum out at hbal
  refine ⟨hbal.length, fun i hi => ?_, fun v hv => ?_, by rw [Nat.add_assoc]; exact hbal.total, hbal.evenRow, hbal.oddRow,
    hkeep⟩
  · by_cases hin : i < source.length
    · exact hzero i hi (.inl (by simpa using ⟨hin, hi⟩))
    · exact List.getD_eq_default _ _ (by rw [hbal.length]; exact Nat.le_of_not_lt hin)
  · obtain ⟨i, hi, rfl⟩ := List.getElem_of_mem hv
    have := hbal.bound i
    rwa [levelAt, List.getD_eq_getElem _ _ hi] at this

/-! ## The arbiter (R109) -/

/-- The request the arbiter holds after some channels is the earliest of theirs, the first on a tie. -/
structure EarliestOf (s : State) (l : List ChanId) (best : Option (ChanId × LineRef × Nat)) : Prop where
  none : best = none → ∀ d ∈ l, fetchRequest s d = none
  some : ∀ b q m, best = some (b, q, m) → fetchRequest s b = some (q, m) ∧ b ∈ l ∧
    ∀ d ∈ l, ∀ q' m', fetchRequest s d = Option.some (q', m') → m < m' ∨ (m = m' ∧ b ≤ d)

theorem EarliestOf.step {s : State} {l : List ChanId} {best : Option (ChanId × LineRef × Nat)}
    (h : EarliestOf s l best) (c : ChanId) (hlt : ∀ d ∈ l, d < c) :
    EarliestOf s (l ++ [c]) (betterRequest s best c) := by
  have hmem : ∀ d, d ∈ l ++ [c] → d ∈ l ∨ d = c := fun d hd => by simpa using hd
  unfold betterRequest
  cases hreq : fetchRequest s c with
  | none =>
    refine ⟨fun hn d hd => (hmem d hd).elim (h.none hn d) fun e => e ▸ hreq, fun b q m hb => ?_⟩
    obtain ⟨hbreq, hbmem, hbest⟩ := h.some b q m hb
    refine ⟨hbreq, List.mem_append_left _ hbmem, fun d hd q' m' hd' => (hmem d hd).elim (fun k => hbest d k q' m' hd') ?_⟩
    rintro rfl
    rw [hreq] at hd'
    cases hd'
  | some x =>
    obtain ⟨r, n⟩ := x
    cases hbest : best with
    | none =>
      refine ⟨nofun, fun b q m hb => ?_⟩
      cases hb
      refine ⟨hreq, by simp, fun d hd q' m' hd' => (hmem d hd).elim (fun k => ?_) ?_⟩
      · rw [h.none hbest d k] at hd'
        cases hd'
      · rintro rfl
        rw [hreq] at hd'
        cases hd'
        exact .inr ⟨rfl, le_refl _⟩
    | some x =>
      obtain ⟨b, q, m⟩ := x
      obtain ⟨hbreq, hbmem, hmin⟩ := h.some b q m hbest
      dsimp only
      by_cases hnm : n < m
      · rw [if_pos hnm]
        refine ⟨nofun, fun b' q' m' hb => ?_⟩
        cases hb
        refine ⟨hreq, by simp, fun d hd q' m' hd' => (hmem d hd).elim (fun k => .inl ?_) ?_⟩
        · rcases hmin d k q' m' hd' with hlt' | ⟨rfl, -⟩
          · exact hnm.trans hlt'
          · exact hnm
        · rintro rfl
          rw [hreq] at hd'
          cases hd'
          exact .inr ⟨rfl, le_refl _⟩
      · rw [if_neg hnm]
        refine ⟨nofun, fun b' q' m' hb => ?_⟩
        cases hb
        refine ⟨hbreq, List.mem_append_left _ hbmem, fun d hd q' m' hd' =>
          (hmem d hd).elim (fun k => hmin d k q' m' hd') ?_⟩
        rintro rfl
        rw [hreq] at hd'
        cases hd'
        rcases Nat.lt_or_eq_of_le (Nat.le_of_not_lt hnm) with hlt' | heq
        · exact .inl hlt'
        · exact .inr ⟨heq, le_of_lt (hlt b hbmem)⟩

theorem foldl_betterRequest_earliest (s : State) (l : List ChanId) (hl : l.Pairwise (· < ·)) :
    EarliestOf s l (l.foldl (betterRequest s) none) := by
  induction l using List.reverseRecOn with
  | nil => exact ⟨fun _ => nofun, nofun⟩
  | append_singleton l c ih =>
    obtain ⟨hl', -, hlt⟩ := List.pairwise_append.1 hl
    rw [List.foldl_append]
    exact (ih hl').step c fun d hd => hlt d hd c List.mem_cons_self

/-- The arbiter grants the earliest target, the lowest channel on a tie. -/
theorem bestRequest_eq_some {s : State} {c : ChanId} {r : LineRef} {n : Nat} (h : fetchRequest s c = some (r, n))
    (hmin : ∀ d q m, fetchRequest s d = some (q, m) → n < m ∨ (n = m ∧ c ≤ d)) : bestRequest s = some (c, r, n) := by
  have hbest := foldl_betterRequest_earliest s allChans (List.pairwise_lt_finRange 32)
  rw [← bestRequest_eq] at hbest
  cases hb : bestRequest s with
  | none =>
    rw [hbest.none hb c (List.mem_finRange c)] at h
    cases h
  | some x =>
    obtain ⟨b, q, m⟩ := x
    obtain ⟨hbreq, -, hle⟩ := hbest.some b q m hb
    have hcb : n = m ∧ b = c := by
      rcases hle c (List.mem_finRange c) r n h with h1 | ⟨h1, h2⟩ <;> rcases hmin b q m hbreq with h3 | ⟨h3, h4⟩
      · omega
      · omega
      · omega
      · exact ⟨h3, le_antisymm h2 h4⟩
    obtain ⟨rfl, rfl⟩ := hcb
    cases hbreq.symm.trans h
    rfl

/-- Settles O53: the request's conditions, and the grant to the earliest. -/
theorem fetchGrantedToEarliestTarget : Obligations.FetchGrantedToEarliestTarget := by
  intro s c r n
  refine ⟨fetchRequest_eq_some s c r n, fun hgrant hfree hreq hmin e b p he hb hp => ?_⟩
  have hmay : (s.port.grant.isNone && decide (Config.fetchTagReserve ≤ freeTags s.port)) = true := by
    rw [hgrant, Bool.and_eq_true]
    exact ⟨rfl, decide_eq_true hfree⟩
  have hspan : fetchSpan s c r = (fetchAddr p r.line e.firstColumn, fetchLen e.firstColumn e.nozzles) := by
    unfold fetchSpan
    rw [he, hb]
    dsimp only
    rw [hp]
  show execFetchGrant s = _
  unfold execFetchGrant
  rw [if_pos hmay, bestRequest_eq_some hreq hmin]
  dsimp only
  rw [grantFetch, hspan]
  rfl

/-! ## Composed lines (R104, R111 to R113) -/

theorem requestShip_chan_self (c : ChanId) (s : State) :
    ∃ b, (requestShip c s).chan c = { s.chan c with shipRequest := b } := by
  unfold requestShip
  split
  · exact ⟨_, State.setChan_chan_self _ _ _⟩
  · exact ⟨_, rfl⟩

/-- A line placed at the tail of its channel's queue. -/
theorem placeLine_spec (c : ChanId) (x : ComposedLine) (s : State) :
    ((placeLine c x s).chan c).queue = (s.chan c).queue ++ [x] ∧ ((placeLine c x s).chan c).live = (s.chan c).live ∧
    ((s.head (headOf c)).returnBand = none → ((placeLine c x s).chan c).compose = lineAfter s c x.ref) ∧
    ((placeLine c x s).chan c).next = (s.chan c).next ∧ ((placeLine c x s).chan c).slot = (s.chan c).slot ∧
    (∀ d, d ≠ c → (placeLine c x s).chan d = s.chan d) ∧ OnlyChanges [.chans, .heads] s (placeLine c x s) := by
  unfold placeLine
  dsimp only
  generalize hs1 : s.setChan c { s.chan c with queue := (s.chan c).queue ++ [x], compose := lineAfter s c x.ref } = s1
  have hchan : s1.chan c = { s.chan c with queue := (s.chan c).queue ++ [x], compose := lineAfter s c x.ref } := by
    rw [← hs1]; exact State.setChan_chan_self _ _ _
  have hreturn : (s1.head (headOf c)).returnBand = (s.head (headOf c)).returnBand := by rw [← hs1]; rfl
  obtain ⟨p, hp, hkeep⟩ := adjustCompose_chan_self c s1
  obtain ⟨b, hb⟩ := requestShip_chan_self c (adjustCompose c s1)
  rw [hb, hp, hchan]
  refine ⟨rfl, rfl, fun hn => ?_, rfl, rfl, fun d hd => ?_, ?_⟩
  · rw [hchan] at hkeep
    exact hkeep (hreturn.trans hn)
  · rw [(requestShip_ownWork c _).others d hd, adjustCompose_chan_ne c s1 hd, ← hs1]
    exact State.setChan_chan_ne _ _ _ _ hd
  · have h1 : OnlyChanges [.chans] s s1 := by rw [← hs1]; exact setChan_onlyChanges _ _ _
    exact ((h1.trans (adjustCompose_onlyChanges c s1)).trans (requestShip_onlyChanges c _)).mono (by decide)

/-- The outcome of a fetch whose composition is wanted: the line it gives is placed. -/
theorem endFetch_of_wanted {s : State} {x : Nat} {c : ChanId} {r : LineRef} {l : Layout} {e : HeadEntry}
    (hlive : (s.chan c).live = some { ref := r, xfer := x }) (hcompose : (s.chan c).compose = some r)
    (hserves : serves s (headOf c) r.band = true) (hl : s.layout = some l) (he : chanEntry s.layout c = some e)
    (bytes : Option (List Byte)) :
    endFetch x c r bytes s = placeLine c
      (match bytes with
        | some bs => composedLine s c r l e bs
        | none => dataFaultLine s r e)
      ((discard x s).setChan c { s.chan c with live := none }) := by
  have hlive' : ((discard x s).chan c).live = some { ref := r, xfer := x } := hlive
  have hwanted : (serves ((discard x s).setChan c { (discard x s).chan c with live := none }) (headOf c) r.band &&
      decide ((((discard x s).setChan c { (discard x s).chan c with live := none }).chan c).compose = some r)) = true := by
    rw [State.setChan_chan_self, Bool.and_eq_true]
    exact ⟨hserves, decide_eq_true hcompose⟩
  have hl' : ((discard x s).setChan c { (discard x s).chan c with live := none }).layout = some l := hl
  have he' : chanEntry ((discard x s).setChan c { (discard x s).chan c with live := none }).layout c = some e := he
  unfold endFetch
  dsimp only
  rw [if_pos hlive', if_pos hwanted, hl', ← hl', he']
  dsimp only
  rw [hl']
  cases bytes <;> rfl

theorem endFetch_of_orphan {s : State} {x : Nat} {c : ChanId} {r : LineRef}
    (hlive : (s.chan c).live ≠ some { ref := r, xfer := x }) (bytes : Option (List Byte)) :
    endFetch x c r bytes s = { s with port := dropTransfer x s.port } := by
  unfold endFetch
  exact if_neg hlive

/-- Settles O54, by whether the fetch's composition is still live and wanted. -/
theorem fetchOutcomePlacesLine : Obligations.FetchOutcomePlacesLine := by
  intro s x y c r l e hfind hfetch hl he wanted places
  have hbind : (findTransfer s.port x).bind Transfer.fetch = some (c, r) := by rw [hfind]; exact hfetch
  have hcomplete : ∀ bs, transferBytes s.port x = some bs →
      exec (.fetchComplete x) s = .next (endFetch x c r (some bs) s) := fun bs hbs => by
    show execFetchComplete x s = _
    unfold execFetchComplete
    rw [hbind, hbs]
  have hfail : transferFailed s.port x = true → exec (.fetchFail x) s = .next (endFetch x c r none s) := fun hf => by
    show execFetchFail x s = _
    unfold execFetchFail
    rw [hbind]
    exact if_pos hf
  have hplaces : ∀ cmd bytes line, exec cmd s = .next (endFetch x c r bytes s) → wanted →
      (match bytes with
        | some bs => composedLine s c r l e bs
        | none => dataFaultLine s r e) = line → line.ref = r → places cmd line := by
    rintro cmd bytes line hexec ⟨hlive, hcompose, hserves⟩ hline href
    rw [endFetch_of_wanted hlive hcompose hserves hl he, hline] at hexec
    obtain ⟨hqueue, hnolive, hplace, hnext, hslot, hothers, honly⟩ :=
      placeLine_spec c line ((discard x s).setChan c { s.chan c with live := none })
    rw [State.setChan_chan_self] at hqueue hnolive hnext hslot
    have hafter : lineAfter ((discard x s).setChan c { s.chan c with live := none }) c line.ref = lineAfter s c r := by
      rw [href]
      exact (SameLines.of_win rfl rfl : SameLines s _).lineAfter c r
    refine ⟨_, hexec, hqueue, hnolive, fun hn => (hplace hn).trans hafter, hnext, hslot,
      fun d hd => (hothers d hd).trans (State.setChan_chan_ne _ _ _ _ hd), honly .port (by decide), ?_⟩
    exact (((discard_onlyChanges x s).trans (setChan_onlyChanges _ _ _)).trans honly).mono (by decide)
  refine ⟨fun bs hbs hw => hplaces _ (some bs) _ (hcomplete bs hbs) hw rfl rfl,
    fun hf hw => hplaces _ none _ (hfail hf) hw rfl rfl, fun cmd hcmd horphan => ?_⟩
  rcases hcmd with ⟨rfl, hbytes⟩ | ⟨rfl, hf⟩
  · obtain ⟨bs, hbs⟩ := Option.ne_none_iff_exists'.1 hbytes
    rw [hcomplete bs hbs, endFetch_of_orphan horphan]
  · rw [hfail hf, endFetch_of_orphan horphan]

end Sys2Proof.Machine

/-! PROOFS. The edits of the nozzle map: staged edits and promotions, immediate edits and the flush of the seam
(chapter 5). -/

namespace Sys2Proof.Machine

/-! ## The reader's work beside what it does not touch -/

theorem raise_withReader (e : Event) (s : State) (r : Reader) : raise e (s.withReader r) = (raise e s).withReader r := by
  rw [raise, raise, setEvents_spec, setEvents_spec]
  rfl

/-- A unit is handed over whatever the reader does. -/
theorem handOver_withReader (u : WriteUnit) (s : State) (r : Reader) :
    handOver u (s.withReader r) = (handOver u s).withReader r := by
  have hpost : postWrites u.writes (s.withReader r) = (postWrites u.writes s).withReader r := rfl
  rw [handOver_spec, handOver_spec, hpost, raise_withReader]
  show (if s.port.linkUp then _ else _) = _
  split
  · split <;> rfl
  · rfl

/-- Following NEXT forgets what the reader had in hand. -/
theorem followNext_withWork (next : Addr) (s : State) (w : ReaderWork) :
    followNext next (s.withReader { s.reader with work := w }) = followNext next s := by
  unfold followNext
  cases he : s.ctl.engine <;> simp only [State.withReader_ctl, he] <;> rfl

/-! ## The unit of an edit's record (R98) -/

/-- The unit that closes an edit's record DONE with its flags. -/
def editUnit (addr : Addr) (notify ignored capacity : Bool) : WriteUnit :=
  { writes := [(addr + 4, BitVec.ofNat 32 (1 + 256 * (ignored.toNat + 2 * capacity.toNat))), (addr, 0x200)]
    notify := notify }

theorem resultUnit_of_edit (addr : Addr) (notify ignored capacity : Bool) :
    resultUnit addr 2 notify (resultWord .done (editFlags ignored capacity) 0) =
      editUnit addr notify ignored capacity := by
  have hword : resultWord .done (editFlags ignored capacity) 0 =
      BitVec.ofNat 32 (1 + 256 * (ignored.toNat + 2 * capacity.toNat)) := by
    revert ignored capacity
    decide
  rw [resultUnit, hword]
  rfl

theorem closeEdit_eq (e : EditRecord) (u : State) (ignored capacity : Bool) :
    closeEdit e (u, ignored, capacity) = handOver (editUnit u.reader.addr e.notify ignored capacity) u := by
  rw [closeEdit, resultUnit_of_edit]

/-! ## Staged edits (R87, R90, R92) -/

theorem editRuns_iff (s : State) : editRuns s = true ↔ working s = true ∨ s.ctl.engine = .aborting := by
  unfold editRuns working
  cases s.ctl.engine <;> simp

/-- A staged edit carried out. -/
theorem applyRecord_of_staged {e : EditRecord} (he : e.immediate = false) (s : State) :
    applyRecord e s = (s.setMap e.head (stagedMap s e),
      (applyEdit e.op (nozzleLimit s.layout e.head) e.indices (s.map e.head).active).ignored,
      (applyEdit e.op (nozzleLimit s.layout e.head) e.indices (s.map e.head).active).capacity) := by
  unfold applyRecord
  dsimp only
  rw [he]
  rfl

theorem stagedMap_of_operation {s : State} {e : EditRecord} (hop : e.op ≠ .noOperation) :
    stagedMap s e =
      let m := s.map e.head
      let r := applyEdit e.op (nozzleLimit s.layout e.head) e.indices m.active
      if s.win.bands = [] then { m with active := r.set }
      else { m with staged := some { set := r.set, waiting := s.win.bands.length } } := by
  unfold stagedMap
  dsimp only
  rw [if_neg hop]
  by_cases hb : s.win.bands = []
  · rw [if_pos hb, if_pos (by rw [hb]; rfl)]
  · rw [if_neg hb, if_neg (by rwa [List.isEmpty_iff])]

theorem exec_nozzleEditStaged {s : State} {e : EditRecord} {next : Addr} (hw : s.reader.work = .editing e next)
    (he : e.immediate = false) (hruns : editRuns s = true) :
    exec .nozzleEditStaged s = .next (carryOutEdit e next s) := by
  show execNozzleEditStaged s = _
  unfold execNozzleEditStaged
  rw [hw]
  dsimp only
  rw [hruns, he]
  rfl

theorem applyRecord_withReader {e : EditRecord} (he : e.immediate = false) (s : State) (r : Reader) :
    applyRecord e (s.withReader r) = ((applyRecord e s).1.withReader r, (applyRecord e s).2) := by
  rw [applyRecord_of_staged he, applyRecord_of_staged he]
  rfl

/-- A staged edit is carried out whatever the reader had in hand. -/
theorem carryOutEdit_withWork {e : EditRecord} (he : e.immediate = false) (next : Addr) (s : State) (w : ReaderWork) :
    carryOutEdit e next (s.withReader { s.reader with work := w }) = carryOutEdit e next s := by
  have hreader : (applyRecord e s).1.reader = s.reader := by rw [applyRecord_of_staged he]; rfl
  have hclose : closeEdit e ((applyRecord e s).1.withReader { s.reader with work := w }, (applyRecord e s).2) =
      (closeEdit e (applyRecord e s)).withReader { (closeEdit e (applyRecord e s)).reader with work := w } := by
    have hclosed : (closeEdit e (applyRecord e s)).reader = s.reader := by rw [closeEdit, handOver_reader, hreader]
    rw [hclosed, closeEdit, closeEdit, handOver_withReader]
    dsimp only
    rw [hreader]
    rfl
  rw [carryOutEdit, carryOutEdit, applyRecord_withReader he, hclose, followNext_withWork]

theorem promoteSet_reader (h : HeadId) (st : StagedSet) (s : State) : (promoteSet h st s).reader = s.reader := rfl

/-- Settles O42, by the edit's application and the reader's work at the promotion. -/
theorem stagedEditsAndPromotion : Obligations.StagedEditsAndPromotion := by
  refine ⟨?_, ?_, ?_⟩
  · intro s e next hw he hop hengine m r m1
    rw [exec_nozzleEditStaged hw he ((editRuns_iff s).2 hengine), carryOutEdit, applyRecord_of_staged he, closeEdit_eq,
      stagedMap_of_operation hop]
    rfl
  · intro s h hhalted
    show execStagedPromotion h s = _
    unfold execStagedPromotion
    split
    · exact if_neg fun k => k.2 hhalted
    · rfl
  · intro s h st hst hwait hengine promoted
    have hexec : exec (.stagedPromotion h) s = .next (takeWaitingEdit h (promoteSet h st s)) := by
      show execStagedPromotion h s = _
      unfold execStagedPromotion
      rw [hst]
      exact if_pos ⟨hwait, hengine⟩
    rw [hexec]
    refine ⟨fun hother => congrArg Host.Outcome.next ?_, fun e n hw hhead he hrun => ?_⟩
    · show takeWaitingEdit h promoted = promoted
      unfold takeWaitingEdit
      rw [show promoted.reader = s.reader from rfl]
      cases hw : s.reader.work with
      | held b n a =>
        cases b with
        | edit e => cases a with
          | false => exact if_neg fun k => hother e n hw k.2
          | true => rfl
        | band b => rfl
        | layout l => rfl
      | idle => rfl
      | headerRead x => rfl
      | bodyFixed x ty n => rfl
      | bodyList x ty n f => rfl
      | nextRead x => rfl
      | editing e n => rfl
      | blockRead x l n => rfl
      | configuring l f n => rfl
    · have htake : takeWaitingEdit h promoted = carryOutEdit e n (setCond .reading promoted) := by
        unfold takeWaitingEdit
        rw [show promoted.reader.work = .held (.edit e) n false from hw]
        exact if_pos ⟨(reading_iff promoted).2 (.inl hrun), hhead⟩
      have hruns : editRuns ((setCond .reading promoted).withReader
          { (setCond .reading promoted).reader with work := .editing e n }) = true :=
        (editRuns_iff _).2 (.inl (by
          show working s = true
          unfold working
          rw [hrun]))
      have hedit : exec .nozzleEditStaged ((setCond .reading promoted).withReader
          { (setCond .reading promoted).reader with work := .editing e n }) = .next (carryOutEdit e n
          ((setCond .reading promoted).withReader { (setCond .reading promoted).reader with work := .editing e n })) :=
        exec_nozzleEditStaged rfl he hruns
      refine Eq.trans ?_ hedit.symm
      rw [show promoteSet h st s = promoted from rfl, htake]
      exact congrArg Host.Outcome.next (carryOutEdit_withWork he n (setCond .reading promoted) _).symm

/-! ## What a flush leaves (R95, R124 to R126) -/

theorem flushedSlot_flushedSlot (x : RowSlot) : flushedSlot (flushedSlot x) = flushedSlot x := by cases x <;> rfl

/-- A flushed channel, its compose place apart. -/
def flushedChannel (ch : Channel) (p : Option LineRef) : Channel :=
  { ch with queue := flushedQueue ch, slot := flushedSlot ch.slot, shipRequest := false, live := none, compose := p }

theorem flushedChannel_again (ch : Channel) (p q : Option LineRef) :
    flushedChannel (flushedChannel ch p) q = flushedChannel ch q := by
  have hqueue : flushedQueue (flushedChannel ch p) = flushedQueue ch := by
    unfold flushedQueue flushedChannel
    cases hs : ch.slot with
    | shipped r => simp [flushedSlot, flushedQueue, hs]
    | empty => rfl
    | transit r => rfl
  unfold flushedChannel at hqueue ⊢
  dsimp only at hqueue ⊢
  rw [hqueue, flushedSlot_flushedSlot]

/-- A flush of a channel whose deferred line, if any, is shipped: nothing starves. -/
theorem flush_of_kept {s : State} {c : ChanId} (h : (s.chan c).deferred = true → nextShipped (s.chan c) = true) :
    flush c s = flushed c s := by
  obtain ⟨p, hp, -⟩ := flushed_chan c s
  rw [flush_eq, if_neg]
  simp only [Bool.and_eq_true, Bool.not_eq_true', not_and]
  rintro ⟨hdef, hnot⟩ -
  rw [hp] at hdef hnot
  obtain ⟨r, hslot, hnext⟩ := (nextShipped_iff _).1 (h hdef)
  have hshipped : nextShipped { s.chan c with queue := flushedQueue (s.chan c), slot := flushedSlot (s.chan c).slot,
                                              shipRequest := false, live := none, compose := p } = true :=
    (nextShipped_iff _).2 ⟨r, by rw [hslot]; rfl, hnext⟩
  rw [hshipped] at hnot
  cases hnot

/-- Nothing fetches for a flushed channel. -/
theorem flush_transfers (c : ChanId) (s : State) :
    ∀ y ∈ (flush c s).port.transfers, y.fetches c = false := by
  intro y hy
  have hdrop : y ∈ (dropFetches c (withdrawRequest c (withdrawTransit c s)).port).transfers := by
    have h := (flush_of_flushed c s).transfers y hy
    rwa [show (flushed c s).port = dropFetches c (withdrawRequest c (withdrawTransit c s)).port from
      adjustCompose_onlyChanges c _ .port (by decide)] at h
  obtain ⟨g, hg⟩ := dropFetches_spec c (withdrawRequest c (withdrawTransit c s)).port
  rw [hg] at hdrop
  simpa using (List.mem_filter.1 hdrop).2

/-- The frame of a channel's row on its head's link is withdrawn. -/
def FrameWithdrawn (c : ChanId) (s : State) : Prop :=
  ∀ f, (s.head (headOf c)).frame = some f → ∀ r levels, f.body = .line (rowOf c) r levels → f.withdrawn = true

theorem FrameWithdrawn.ownWork {c d : ChanId} {s t : State} (h : FrameWithdrawn c s) (k : OwnWork d s t) :
    FrameWithdrawn c t := by
  intro f hf r levels hb
  by_cases hd : headOf c = headOf d
  · obtain ⟨f0, h0, hbody, hmark⟩ := k.frame f (hd ▸ hf)
    exact hmark (h f0 (hd ▸ h0) r levels (hbody ▸ hb))
  · rw [k.otherHeads _ hd] at hf
    exact h f hf r levels hb

theorem withdrawTransit_withdrawn {c : ChanId} {s : State} {q : LineRef} (hslot : (s.chan c).slot = .transit q) :
    FrameWithdrawn c (withdrawTransit c s) := by
  intro f hf r levels hb
  rw [withdrawTransit_head, hslot] at hf
  obtain ⟨f0, -, rfl⟩ := Option.map_eq_some_iff.1 hf
  dsimp only at hb ⊢
  rw [hb]
  simp

theorem flush_withdrawn {c : ChanId} {s : State} {q : LineRef} (hslot : (s.chan c).slot = .transit q) :
    FrameWithdrawn c (flush c s) :=
  (((withdrawTransit_withdrawn hslot).ownWork (withdrawRequest_ownWork c _)).ownWork (flushed_of_withdrawn c s)).ownWork
    (flush_of_flushed c s)

/-- After the flushes nothing fetches for a flushed channel, and what was in transit for it is withdrawn. -/
theorem foldl_flush_port (l : List ChanId) (s : State) :
    (∀ y ∈ (l.foldl (fun u c => flush c u) s).port.transfers, y ∈ s.port.transfers) ∧
    (∀ c ∈ l, ∀ y ∈ (l.foldl (fun u c => flush c u) s).port.transfers, y.fetches c = false) ∧
    (∀ c, FrameWithdrawn c s → FrameWithdrawn c (l.foldl (fun u c => flush c u) s)) ∧
    ∀ c ∈ l, (∃ q, (s.chan c).slot = .transit q) → FrameWithdrawn c (l.foldl (fun u c => flush c u) s) := by
  induction l generalizing s with
  | nil => exact ⟨fun _ h => h, nofun, fun _ h => h, nofun⟩
  | cons d l ih =>
    obtain ⟨hsub, hfetch, hkeep, hmark⟩ := ih (flush d s)
    have hwork := flush_ownWork d s
    refine ⟨fun y hy => hwork.transfers y (hsub y hy), fun c hc y hy => ?_, fun c h => hkeep c (h.ownWork hwork),
      fun c hc hslot => ?_⟩
    · rcases List.mem_cons.1 hc with rfl | hc
      · exact flush_transfers c s y (hsub y hy)
      · exact hfetch c hc y hy
    · by_cases hcd : c = d
      · subst hcd
        obtain ⟨q, hq⟩ := hslot
        exact hkeep c (flush_withdrawn hq)
      · refine hmark c ((List.mem_cons.1 hc).resolve_left hcd) ?_
        rw [hwork.others c hcd]
        exact hslot

/-- What flushes leave alone where none of them starves a line. -/
structure KeptByFlushes (s t : State) : Prop where
  only : OnlyChanges [.chans, .heads, .port] s t
  returns : ∀ g, (t.head g).returnBand = (s.head g).returnBand

theorem KeptByFlushes.sameLines {s t : State} (h : KeptByFlushes s t) : SameLines s t :=
  .of_win (h.only .win (by decide)) (h.only .layout (by decide))

/-- The compose place of a flush, read off its lines and its channel's slot and next line. -/
theorem flushPlace_congr {s t : State} (h : SameLines s t) {c : ChanId}
    (hc : t.chan c = s.chan c ∨ ∃ p, t.chan c = flushedChannel (s.chan c) p) : flushPlace t c = flushPlace s c := by
  have hafter : lineAfter t c = lineAfter s c := funext fun r => h.lineAfter c r
  rcases hc with hc | ⟨p, hc⟩
  · unfold flushPlace
    rw [hc, hafter]
  · unfold flushPlace flushedChannel at *
    rw [hc, hafter]
    cases (s.chan c).slot <;> rfl

/-- Flushes that starve nothing: each channel keeps its shipped line and composes on from the line after it. -/
theorem foldl_flush_kept {s : State} (l : List ChanId)
    (h : ∀ c ∈ l, (s.chan c).deferred = true → nextShipped (s.chan c) = true) :
    KeptByFlushes s (l.foldl (fun u c => flush c u) s) ∧
    (∀ c ∈ l, ∃ p, (l.foldl (fun u c => flush c u) s).chan c = flushedChannel (s.chan c) p ∧
      ((s.head (headOf c)).returnBand = none → p = flushPlace s c)) ∧
    ∀ c, c ∉ l → (l.foldl (fun u c => flush c u) s).chan c = s.chan c := by
  have hkept : ∀ t, ∀ c ∈ l, t.chan c = s.chan c ∨ (∃ p, t.chan c = flushedChannel (s.chan c) p ∧
      ((s.head (headOf c)).returnBand = none → p = flushPlace s c)) → flush c t = flushed c t := by
    intro t c hc ht
    refine flush_of_kept fun hdef => ?_
    rcases ht with ht | ⟨p, ht, -⟩
    · rw [ht] at hdef ⊢
      exact h c hc hdef
    · rw [ht] at hdef ⊢
      obtain ⟨r, hslot, hnext⟩ := (nextShipped_iff _).1 (h c hc hdef)
      exact (nextShipped_iff _).2 ⟨r, by rw [flushedChannel, hslot]; rfl, hnext⟩
  refine foldl_chans_of_invariant (P := fun c ch => ∃ p, ch = flushedChannel (s.chan c) p ∧
      ((s.head (headOf c)).returnBand = none → p = flushPlace s c)) (I := KeptByFlushes s) l
    ⟨.refl _ s, fun _ => rfl⟩ (fun t c hc hI ht => ?_) (fun t c d hd => (flush_ownWork c t).others d hd)
    (fun t c hc hI ht => ?_)
  · rw [hkept t c hc ht]
    refine ⟨hI.only.trans_same (flushed_onlyChanges c t), fun g => ?_⟩
    obtain ⟨q, f, a, e⟩ := (flushed_ownWork c t).head_fields g
    rw [e]
    exact hI.returns g
  · rw [hkept t c hc ht]
    obtain ⟨p, hp, hplace⟩ := flushed_chan c t
    refine ⟨p, ?_, fun hn => ?_⟩
    · refine hp.trans ?_
      rcases ht with ht | ⟨p', ht, -⟩
      · rw [ht]; rfl
      · rw [ht]; exact flushedChannel_again _ _ p
    · rw [hplace ((hI.returns _).trans hn)]
      exact flushPlace_congr hI.sameLines (ht.imp_right fun ⟨p', ht', _⟩ => ⟨p', ht'⟩)

/-! ## Immediate edits (R94 to R98, R100) -/

/-- An immediate edit's sets and flags, copy by copy. -/
theorem immediateSets_eq (limit : Nat) (e : EditRecord) (m : NozzleMap) :
    immediateSets limit e m =
      let a := applyEdit e.op limit e.indices m.active
      let b := m.staged.map fun st => applyEdit e.op limit e.indices st.set
      ({ m with active := a.set
                staged := m.staged.map fun st => { st with set := (applyEdit e.op limit e.indices st.set).set } },
        a.ignored || (b.map EditResult.ignored).getD false, a.capacity || (b.map EditResult.capacity).getD false) := by
  unfold immediateSets
  cases hst : m.staged <;> simp

theorem applyRecord_of_immediate {e : EditRecord} (he : e.immediate = true) (s : State) :
    applyRecord e s = (applyImmediate e s, (immediateSets (nozzleLimit s.layout e.head) e (s.map e.head)).2) := by
  unfold applyRecord
  dsimp only
  rw [if_pos he]

/-- Whether an immediate edit changes a set of its head. -/
theorem changes_iff (limit : Nat) (e : EditRecord) (m : NozzleMap) :
    (immediateSets limit e m).1 ≠ m ↔
      (applyEdit e.op limit e.indices m.active).set ≠ m.active ∨
        (m.staged.map fun st => { st with set := (applyEdit e.op limit e.indices st.set).set }) ≠ m.staged := by
  rw [immediateSets_eq]
  cases m
  simp only [ne_eq, NozzleMap.mk.injEq, and_true, not_and_or]

theorem applyImmediate_of_quiet {e : EditRecord} {s : State}
    (h : ¬((immediateSets (nozzleLimit s.layout e.head) e (s.map e.head)).1 ≠ s.map e.head ∧ s.ctl.engine ≠ .aborting)) :
    applyImmediate e s = s.setMap e.head (immediateSets (nozzleLimit s.layout e.head) e (s.map e.head)).1 := if_neg h

theorem applyImmediate_of_change {e : EditRecord} {s : State}
    (h : (immediateSets (nozzleLimit s.layout e.head) e (s.map e.head)).1 ≠ s.map e.head)
    (hengine : s.ctl.engine ≠ .aborting) :
    applyImmediate e s = (seamChans s e.head).foldl (fun s c => flush c s) (s.setMap e.head
      { (immediateSets (nozzleLimit s.layout e.head) e (s.map e.head)).1 with hold := newHold s e.head }) :=
  if_pos ⟨h, hengine⟩

theorem newHold_eq (s : State) (h : HeadId) :
    newHold s h = if newPins s h = [] then none
      else some { active := (s.map h).active, staged := (s.map h).staged.map StagedSet.set, pins := newPins s h } := by
  unfold newHold
  dsimp only
  simp only [List.isEmpty_iff]

theorem exec_nozzleEditImmediate {s : State} {e : EditRecord} {next : Addr} (hw : s.reader.work = .editing e next)
    (he : e.immediate = true) (hruns : editRuns s = true) (hwaits : editWaits s e = false) :
    exec .nozzleEditImmediate s = .next (carryOutEdit e next s) := by
  show execNozzleEditImmediate s = _
  unfold execNozzleEditImmediate
  rw [hw]
  dsimp only
  rw [hruns, he, hwaits]
  rfl

theorem editWaits_eq_false_iff (s : State) (e : EditRecord) :
    editWaits s e = false ↔
      ¬(e.immediate = true ∧ ((s.map e.head).hold ≠ none ∨ ∃ g ∈ partners s.layout e.head, (s.map g).hold ≠ none)) := by
  rw [editWaits, holdBlocks, ← Bool.not_eq_true, not_iff_not, Bool.and_eq_true, Bool.or_eq_true, List.any_eq_true]
  simp only [Option.isSome_iff_ne_none]

/-- Settles O43, by the edit's application and what its flushes leave. -/
theorem immediateEditFlushesSeam : Obligations.ImmediateEditFlushesSeam := by
  intro s e next hw he hengine hhold hpartners m limit a b staged ignored capacity changed closed seam pins hold edited t
  have hwaits : editWaits s e = false := (editWaits_eq_false_iff s e).2 fun k =>
    k.2.elim (fun h => h hhold) fun ⟨g, hg, hne⟩ => hne (hpartners g hg)
  have hsets : immediateSets limit e m = ({ m with active := a.set, staged := staged }, ignored, capacity) :=
    immediateSets_eq limit e m
  have hchanged : (immediateSets limit e m).1 ≠ m ↔ changed := changes_iff limit e m
  have hexec : exec .nozzleEditImmediate s =
      .next (followNext next (closeEdit e (applyImmediate e s, ignored, capacity))) := by
    rw [exec_nozzleEditImmediate hw he ((editRuns_iff s).2 hengine) hwaits, carryOutEdit, applyRecord_of_immediate he]
    show Host.Outcome.next (followNext next (closeEdit e (applyImmediate e s, (immediateSets limit e m).2))) = _
    rw [hsets]
  have hclosed : ∀ u : State, u.reader.addr = s.reader.addr →
      followNext next (closeEdit e (u, ignored, capacity)) = closed u := fun u hu => by
    rw [closeEdit_eq, hu]
    rfl
  refine ⟨fun hquiet => ?_, fun hc hworks => ?_⟩
  · have happly : applyImmediate e s = s.setMap e.head { m with active := a.set, staged := staged } := by
      rw [applyImmediate_of_quiet fun ⟨h1, h2⟩ => hquiet.elim (fun k => k (hchanged.1 h1)) h2]
      exact congrArg (s.setMap e.head) (congrArg Prod.fst hsets)
    rw [hexec, happly]
    exact congrArg Host.Outcome.next (hclosed _ rfl)
  have hnotAborting : s.ctl.engine ≠ .aborting := fun k => by
    rw [(working_eq_false_of_frozen (by rw [frozen, k]) : working s = false)] at hworks
    cases hworks
  have happly : applyImmediate e s = t := by
    rw [applyImmediate_of_change (hchanged.2 hc) hnotAborting, newHold_eq]
    show seam.foldl _ (s.setMap e.head { (immediateSets limit e m).1 with hold := hold }) = t
    rw [hsets]
    rfl
  have hruns : Runs edited t := .foldl _ (fun u c => flush_runs c u) _ _
  have haddr : t.reader.addr = s.reader.addr := by rw [hruns.reader]
  have hmap : ∀ h, edited.map h = if h = e.head then { active := a.set, staged := staged, hold := hold } else s.map h :=
    fun h => State.setMap_map s e.head h _
  have hself : (t.map e.head).sets = (a.set, staged) := by
    rw [hruns.sets, hmap, if_pos rfl]
    rfl
  obtain ⟨hqueues, hothers⟩ := foldl_flush_chans seam edited
  obtain ⟨-, hfetch, -, hwithdrawn⟩ := foldl_flush_port seam edited
  refine ⟨?_, congrArg Prod.fst hself, congrArg Prod.snd hself, fun h hh => ?_, fun c hc' => ?_, fun c hc' => hothers c hc',
    hruns.posn, hruns.layout, hruns.tick, haddr, hruns.failed, fun hkeep => ?_⟩
  · rw [hexec, happly, hclosed t haddr]
  · rw [hruns.sets, hmap, if_neg hh]
  · obtain ⟨hlive, hqueue⟩ := hqueues c hc'
    refine ⟨hlive, hqueue, fun y hy r hfetches => ?_, fun hslot => hwithdrawn c hc' hslot⟩
    have hno := hfetch c hc' y hy
    rw [Transfer.fetches, hfetches] at hno
    simp at hno
  · obtain ⟨hkept, hflushed, -⟩ := foldl_flush_kept (s := edited) seam hkeep
    have hsame : SameLines s edited := .of_win rfl rfl
    refine ⟨hkept.only .maps (by decide), hkept.only .win (by decide), hkept.only .ctl (by decide),
      hkept.only .reader (by decide), fun c hc' => ?_⟩
    obtain ⟨p, hp, hplace⟩ := hflushed c hc'
    have hplace' : (s.head (headOf c)).returnBand = none → p = flushPlace s c := fun hn =>
      (hplace hn).trans (flushPlace_congr hsame (.inl rfl))
    rw [show t.chan c = flushedChannel (s.chan c) p from hp]
    refine ⟨rfl, rfl, rfl, rfl, rfl, fun r hr => ⟨?_, ?_, fun hn => ?_⟩, fun hr => ⟨?_, ?_, fun hn => ?_⟩⟩
    · rw [flushedChannel, hr]; rfl
    · rw [flushedChannel, flushedQueue, hr]
    · refine (hplace' hn).trans ?_
      rw [flushPlace, hr]
    · unfold flushedChannel
      cases hs : (s.chan c).slot with
      | shipped r => exact absurd hs (hr r)
      | empty => rfl
      | transit r => rfl
    · unfold flushedChannel flushedQueue
      cases hs : (s.chan c).slot with
      | shipped r => exact absurd hs (hr r)
      | empty => rfl
      | transit r => rfl
    · refine (hplace' hn).trans ?_
      unfold flushPlace
      cases hs : (s.chan c).slot with
      | shipped r => exact absurd hs (hr r)
      | empty => rfl
      | transit r => rfl

end Sys2Proof.Machine

/-! PROOFS. ABORT: the edit that completes first, the parks, the reader's record and the end (chapter 9). -/

namespace Sys2Proof.Machine

/-! ## The edit that ABORT completes first (R185) -/

theorem State.setMap_self (s : State) (h : HeadId) : s.setMap h (s.map h) = s := by
  show s.withMaps (s.maps.set h s.maps[h.val]) = s
  rw [Vector.set_getElem_self]
  rfl

/-- A staged edit with the fourth OP value forms no set. -/
theorem applyStaged_of_noOperation {e : EditRecord} (hop : e.op = .noOperation) (s : State) :
    s.setMap e.head (stagedMap s e) = s := by
  have hmap : stagedMap s e = s.map e.head := by
    unfold stagedMap
    exact if_pos hop
  rw [hmap, State.setMap_self]

/-- An immediate edit that changes no set leaves the state as it is. -/
theorem applyImmediate_of_same {e : EditRecord} {s : State}
    (h : ¬(immediateSets (nozzleLimit s.layout e.head) e (s.map e.head)).1 ≠ s.map e.head) : applyImmediate e s = s := by
  rw [applyImmediate_of_quiet fun k => h k.1, not_not.1 h, State.setMap_self]

theorem exec_abort_of_working {s : State} (h : s.ctl.engine = .running ∨ s.ctl.engine = .suspended ∨
    s.ctl.engine = .draining ∨ s.ctl.engine = .halted) :
    exec .abort s = .next (abortEnds (abortedState (completeEdit s))) := by
  show Host.Outcome.next (takeAbort s) = _
  unfold takeAbort
  rcases h with h | h | h | h <;> rw [h]

/-! ## What ABORT leaves of the Memory Port -/

/-- The Memory Port has taken no transfer up and lost none of what it posted. -/
structure PortKeeps (p q : MemoryPort) : Prop where
  tags : q.tags = p.tags
  linkUp : q.linkUp = p.linkUp
  transfers : ∀ y ∈ q.transfers, y ∈ p.transfers
  grant : p.grant = none → q.grant = none
  outbox : ∃ tail, q.outbox = p.outbox ++ tail

theorem PortKeeps.refl (p : MemoryPort) : PortKeeps p p := ⟨rfl, rfl, fun _ h => h, id, [], (List.append_nil _).symm⟩

theorem PortKeeps.trans {p q r : MemoryPort} (h : PortKeeps p q) (k : PortKeeps q r) : PortKeeps p r := by
  obtain ⟨a, ha⟩ := h.outbox
  obtain ⟨b, hb⟩ := k.outbox
  exact ⟨k.tags.trans h.tags, k.linkUp.trans h.linkUp, fun y hy => h.transfers y (k.transfers y hy),
    fun hg => k.grant (h.grant hg), a ++ b, by rw [hb, ha, List.append_assoc]⟩

theorem freeGrant_keeps (p : MemoryPort) : PortKeeps p (freeGrant p) := by
  obtain ⟨g, hg⟩ := freeGrant_spec p
  have hgrant : p.grant = none → (freeGrant p).grant = none := fun h => by
    unfold freeGrant
    rw [h]
    exact h
  rw [hg] at hgrant ⊢
  exact ⟨rfl, rfl, fun _ h => h, hgrant, [], (List.append_nil _).symm⟩

theorem filter_keeps (p : MemoryPort) (keep : Transfer → Bool) :
    PortKeeps p { p with transfers := p.transfers.filter keep } :=
  ⟨rfl, rfl, fun _ h => List.mem_of_mem_filter h, id, [], (List.append_nil _).symm⟩

theorem dropTransfer_keeps (x : Nat) (p : MemoryPort) : PortKeeps p (dropTransfer x p) :=
  (filter_keeps p _).trans (freeGrant_keeps _)

theorem dropFetches_keeps (c : ChanId) (p : MemoryPort) : PortKeeps p (dropFetches c p) :=
  (filter_keeps p _).trans (freeGrant_keeps _)

theorem raise_keeps_port (e : Event) (s : State) : PortKeeps s.port (raise e s).port := by
  obtain ⟨tail, h⟩ := raise_port_adds e s
  rw [h]
  exact ⟨rfl, rfl, fun _ h => h, id, tail, rfl⟩

theorem handOver_keeps_port (u : WriteUnit) (s : State) : PortKeeps s.port (handOver u s).port := by
  have hpost : PortKeeps s.port (postWrites u.writes s).port := ⟨rfl, rfl, fun _ h => h, id, postedWrites u.writes, rfl⟩
  rw [handOver_spec]
  split
  · split
    · exact hpost.trans (raise_keeps_port _ _)
    · exact hpost
  · exact ⟨rfl, rfl, fun _ h => h, id, [], (List.append_nil _).symm⟩

/-- With the link up a unit is posted whole. -/
theorem handOver_posts {u : WriteUnit} {s : State} (h : s.port.linkUp = true) :
    ∃ tail, (handOver u s).port.outbox = s.port.outbox ++ postedWrites u.writes ++ tail := by
  rw [handOver_spec, if_pos h]
  split
  · exact (raise_keeps_port .recordClosed (postWrites u.writes s)).outbox
  · exact ⟨[], (List.append_nil _).symm⟩

theorem discardReads_keeps_port (s : State) : PortKeeps s.port (discardReads s).port := by
  unfold discardReads
  split
  · exact dropTransfer_keeps _ _
  · exact .refl _

theorem handOver_onlyChanges (u : WriteUnit) (s : State) : OnlyChanges [.ctl, .port] s (handOver u s) := by
  have hpost : OnlyChanges [.ctl, .port] s (postWrites u.writes s) := (withPort_onlyChanges s _).mono (by decide)
  rw [handOver_spec]
  exact .ite (fun _ => .ite (fun _ => hpost.trans_same (raise_onlyChanges _ _)) fun _ => hpost)
    fun _ => (withPort_onlyChanges s _).mono (by decide)

/-! ## HEAD_PARKED (R190) -/

/-- The flag HEAD_PARKED is set by its own event alone. -/
theorem raise_headParked_bit (e : Event) (s : State) :
    (raise e s).ctl.events.getLsbD 5 = (s.ctl.events.getLsbD 5 || decide (e = .headParked)) := by
  rw [raise_ctl]
  show (s.ctl.events ||| eventMask e).getLsbD 5 = _
  rw [BitVec.getLsbD_or]
  cases e <;> rfl

theorem handOver_headParked_bit (u : WriteUnit) (s : State) :
    (handOver u s).ctl.events.getLsbD 5 = s.ctl.events.getLsbD 5 := by
  rw [handOver_spec]
  split
  · split
    · rw [raise_headParked_bit]
      exact Bool.or_false _
    · rfl
  · rfl

/-! ## The parks of ABORT (R124, R126, R173) -/

/-- The compose place of a channel that a park of ABORT flushes: its next line, or what its head's return band
makes of it. -/
def abortedPlace (s : State) (c : ChanId) : Option LineRef :=
  match (s.head (headOf c)).returnBand, (s.chan c).next with
  | some r, some p => if p.band < r then firstLineFrom s c r else some p
  | some _, none | none, _ => (s.chan c).next

theorem adjustCompose_at_next {s : State} {c : ChanId} :
    (adjustCompose c (s.setChan c { s.chan c with live := none, compose := (s.chan c).next })).chan c =
      { s.chan c with live := none, compose := abortedPlace s c } := by
  generalize hu : s.setChan c { s.chan c with live := none, compose := (s.chan c).next } = u
  have hchan : u.chan c = { s.chan c with live := none, compose := (s.chan c).next } := by
    rw [← hu]; exact State.setChan_chan_self _ _ _
  have hhead : u.head (headOf c) = s.head (headOf c) := by rw [← hu]; rfl
  have hfirst : ∀ r, firstLineFrom u c r = firstLineFrom s c r := fun r =>
    (SameLines.of_win (by rw [← hu]; rfl) (by rw [← hu]; rfl) : SameLines s u).firstLineFrom c r
  unfold adjustCompose abortedPlace
  rw [hhead, hchan]
  cases hr : (s.head (headOf c)).returnBand with
  | none => exact hchan
  | some r =>
    cases hp : (s.chan c).next with
    | none =>
      rw [hp] at hchan
      exact hchan
    | some p =>
      dsimp only
      by_cases hlt : p.band < r
      · have hserves : serves u (headOf c) p.band = false := by
          unfold serves
          dsimp only
          rw [hhead, hr]
          simp [hlt]
        rw [if_pos hlt, hserves, decide_eq_true hlt, Bool.not_false, Bool.and_true, if_pos rfl, State.setChan_chan_self,
          hfirst]
      · rw [if_neg hlt, decide_eq_false hlt, Bool.and_false, if_neg Bool.false_ne_true]
        rw [hp] at hchan
        exact hchan

/-- What the flushes of empty channels leave alone. -/
structure KeptByEmptyFlushes (s t : State) : Prop where
  only : OnlyChanges [.chans, .port] s t
  port : PortKeeps s.port t.port

theorem KeptByEmptyFlushes.abortedPlace {s t : State} (h : KeptByEmptyFlushes s t) {c : ChanId}
    (hn : (t.chan c).next = (s.chan c).next) : abortedPlace t c = abortedPlace s c := by
  have hfirst : firstLineFrom t c = firstLineFrom s c := funext fun r =>
    (SameLines.of_win (h.only .win (by decide)) (h.only .layout (by decide)) : SameLines s t).firstLineFrom c r
  unfold Machine.abortedPlace
  rw [hn, h.only.head_eq (by decide), hfirst]

/-- Flushes of empty channels in a FROZEN engine: their fetches go, and their compose places are set anew. -/
theorem foldl_flush_empty {s : State} (hf : frozen s = true) (l : List ChanId) (hempty : ∀ c ∈ l, (s.chan c).Cleared) :
    KeptByEmptyFlushes s (l.foldl (fun u c => flush c u) s) ∧
    (∀ c ∈ l, (l.foldl (fun u c => flush c u) s).chan c =
      { s.chan c with live := none, compose := abortedPlace s c }) ∧
    ∀ c, c ∉ l → (l.foldl (fun u c => flush c u) s).chan c = s.chan c := by
  have hflush : ∀ t, ∀ c ∈ l, KeptByEmptyFlushes s t → t.chan c = s.chan c ∨
      t.chan c = { s.chan c with live := none, compose := abortedPlace s c } →
      flush c t = adjustCompose c ((t.withPort (dropFetches c t.port)).setChan c
        { t.chan c with live := none, compose := (t.chan c).next }) := by
    intro t c hc hI ht
    obtain ⟨hqueue, hslot, hrequest⟩ := hempty c hc
    have hft : frozen t = true := by rw [frozen_congr (hI.only .ctl (by decide)), hf]
    rcases ht with ht | ht
    · exact flush_empty c t hft (by rw [ht, hslot]) (by rw [ht, hqueue]) (by rw [ht, hrequest])
    · exact flush_empty c t hft (by rw [ht]; exact hslot) (by rw [ht]; exact hqueue) (by rw [ht]; exact hrequest)
  refine foldl_chans_of_invariant (P := fun c ch => ch = { s.chan c with live := none, compose := abortedPlace s c })
    (I := KeptByEmptyFlushes s) l ⟨.refl _ s, .refl _⟩ (fun t c hc hI ht => ?_)
    (fun t c d hd => (flush_ownWork c t).others d hd) (fun t c hc hI ht => ?_)
  · rw [hflush t c hc hI ht]
    refine ⟨hI.only.trans_same ?_, hI.port.trans ?_⟩
    · exact (((withPort_onlyChanges t _).trans (setChan_onlyChanges _ c _)).trans (adjustCompose_onlyChanges c _)).mono
        (by decide)
    · rw [adjustCompose_onlyChanges c _ .port (by decide)]
      exact dropFetches_keeps c t.port
  · rw [hflush t c hc hI ht]
    have hplace : abortedPlace (t.withPort (dropFetches c t.port)) c = abortedPlace s c :=
      (KeptByEmptyFlushes.abortedPlace (s := t) ⟨(withPort_onlyChanges t _).mono (by decide), dropFetches_keeps c t.port⟩
        rfl).trans (hI.abortedPlace (by rcases ht with ht | ht <;> rw [ht]))
    refine (adjustCompose_at_next (s := t.withPort (dropFetches c t.port)) (c := c)).trans ?_
    rw [hplace]
    show { t.chan c with live := none, compose := abortedPlace s c } = _
    rcases ht with ht | ht <;> rw [ht]

/-- The parks of ABORT: the channels of the partners of each head that parks compose anew, and HEAD_PARKED is
raised. -/
theorem abortParks_spec {s : State} (hf : frozen s = true) (hempty : ∀ c, (s.chan c).Cleared) (hs : List HeadId) :
    OnlyChanges [.chans, .port, .ctl] s (abortParks hs s) ∧ PortKeeps s.port (abortParks hs s).port ∧
    (∀ c, (abortParks hs s).chan c =
      if ∃ h ∈ hs, c ∈ partnerChans s h then { s.chan c with live := none, compose := abortedPlace s c } else s.chan c) ∧
    ((abortParks hs s).ctl.events.getLsbD 5 = true ↔ s.ctl.events.getLsbD 5 = true ∨ ∃ h, h ∈ hs) := by
  unfold abortParks
  obtain ⟨hkept, hin, hout⟩ := foldl_flush_empty hf (hs.flatMap (partnerChans s)) fun c _ => hempty c
  split
  next hnil =>
    rw [List.isEmpty_iff] at hnil
    subst hnil
    exact ⟨.refl _ s, .refl _, fun c => by simp, by simp⟩
  next hsome =>
    generalize (hs.flatMap (partnerChans s)).foldl (fun u c => flush c u) s = u at hkept hin hout
    refine ⟨(hkept.only.trans (raise_onlyChanges _ u)).mono (by decide), hkept.port.trans (raise_keeps_port _ u),
      fun c => ?_, ?_⟩
    · rw [(raise_onlyChanges .headParked u).chan_eq (by decide)]
      split
      next h => exact hin c (List.mem_flatMap.2 h)
      next h => exact hout c fun k => h (List.mem_flatMap.1 k)
    · rw [raise_headParked_bit]
      have hne : ∃ h, h ∈ hs := List.exists_mem_of_ne_nil hs (by rwa [List.isEmpty_iff] at hsome)
      simp [hne]

/-! ## The reader's record at ABORT (R35, R83, R185) -/

/-- What the reader's turn at ABORT leaves: no read and no layout record in hand. -/
structure ReaderStopped (s t : State) : Prop where
  only : OnlyChanges [.reader, .port, .ctl] s t
  port : PortKeeps s.port t.port
  parked : t.ctl.events.getLsbD 5 = s.ctl.events.getLsbD 5
  reader : ∃ w, t.reader = { s.reader with work := w } ∧ readerXfer w = none
  editing : ∀ e n, s.reader.work = .editing e n → t.reader.work = .editing e n

theorem ReaderStopped.of_same {s : State} (h : readerXfer s.reader.work = none) : ReaderStopped s s :=
  ⟨.refl _ s, .refl _, rfl, ⟨_, rfl, h⟩, fun _ _ => id⟩

theorem discardReads_reader_idle {s : State} {x : Nat} (h : readerXfer s.reader.work = some x) :
    (discardReads s).reader = { s.reader with work := .idle } := by
  rw [(discardReads_spec s).2.2, h]
  rfl

theorem discardReads_stopped {s : State} {x : Nat} (h : readerXfer s.reader.work = some x) :
    ReaderStopped s (discardReads s) :=
  ⟨(discardReads_onlyChanges s).mono (by decide), discardReads_keeps_port s, by rw [(discardReads_spec s).2.1],
    ⟨.idle, discardReads_reader_idle h, rfl⟩, fun e n hw => by rw [hw] at h; cases h⟩

theorem setWork_idle_stopped {s : State} (h : ∀ e n, s.reader.work ≠ .editing e n) : ReaderStopped s (setWork .idle s) :=
  ⟨(withReader_onlyChanges s _).mono (by decide), .refl _, rfl, ⟨.idle, rfl, rfl⟩, fun e n hw => absurd hw (h e n)⟩

theorem ReaderStopped.closeLayout {s t : State} (h : ReaderStopped s t) (l : LayoutRecord) (code : ResultCode)
    (flags : BitVec 8) (park : BitVec 16) : ReaderStopped s (closeLayout l code flags park t) := by
  have hsame : (Machine.closeLayout l code flags park t).reader = t.reader := handOver_reader _ _
  exact ⟨(h.only.trans (handOver_onlyChanges _ t)).mono (by decide), h.port.trans (handOver_keeps_port _ t),
    (handOver_headParked_bit _ t).trans h.parked, by rw [hsame]; exact h.reader, by rw [hsame]; exact h.editing⟩

theorem abortReader_stopped (s : State) : ReaderStopped s (abortReader s) := by
  unfold abortReader
  cases hw : s.reader.work with
  | headerRead x => exact discardReads_stopped (x := x) (by rw [hw]; rfl)
  | bodyFixed x ty n => exact discardReads_stopped (x := x) (by rw [hw]; rfl)
  | bodyList x ty n f => exact discardReads_stopped (x := x) (by rw [hw]; rfl)
  | nextRead x => exact discardReads_stopped (x := x) (by rw [hw]; rfl)
  | blockRead x l n => exact (discardReads_stopped (x := x) (by rw [hw]; rfl)).closeLayout l _ _ _
  | configuring l f n => exact (setWork_idle_stopped (by rw [hw]; nofun)).closeLayout l _ _ _
  | held b n a =>
    cases b with
    | layout l =>
      cases a with
      | false => exact (setWork_idle_stopped (by rw [hw]; nofun)).closeLayout l _ _ _
      | true => exact .of_same (by rw [hw]; rfl)
    | band b => exact .of_same (by rw [hw]; rfl)
    | edit e => exact .of_same (by rw [hw]; rfl)
  | idle => exact .of_same (by rw [hw]; rfl)
  | editing e n => exact .of_same (by rw [hw]; rfl)

/-- A layout record's unit in the outbox. -/
theorem closeLayout_posts {t : State} (h : t.port.linkUp = true) (l : LayoutRecord) (code : ResultCode)
    (flags : BitVec 8) (park : BitVec 16) :
    ∃ tail, (closeLayout l code flags park t).port.outbox = t.port.outbox ++
      (postedWrite (addrPlus t.reader.addr 4) (resultWord code flags park) ++ postedWrite t.reader.addr 0x300) ++ tail := by
  obtain ⟨tail, htail⟩ := handOver_posts (u := resultUnit t.reader.addr 3 l.notify (resultWord code flags park)) h
  refine ⟨tail, htail.trans ?_⟩
  rw [resultUnit, postedWrites, List.flatMap_cons, List.flatMap_cons, List.flatMap_nil, List.append_nil]
  rfl

/-- The unit with which ABORT closes a layout record in hand: ABORTED before its application, and DONE with its park
mask after it. -/
theorem abortReader_posts {s : State} (h : s.port.linkUp = true) (result : Word32)
    (hr : (∃ x l n, s.reader.work = .blockRead x l n ∧ result = 3) ∨
      (∃ l n, s.reader.work = .held (.layout l) n false ∧ result = 3) ∨
      (∃ l f n, s.reader.work = .configuring l f n ∧ ∃ p : BitVec 16,
        (∀ g : HeadId, p.getLsbD g.val = decide ((s.head g).service = .parked)) ∧ result = p ++ f ++ 1#8)) :
    ∃ tail, (abortReader s).port.outbox = s.port.outbox ++
      (postedWrite (addrPlus s.reader.addr 4) result ++ postedWrite s.reader.addr 0x300) ++ tail := by
  have haborted : resultWord .aborted 0 0 = 3 := rfl
  rcases hr with ⟨x, l, n, hw, rfl⟩ | ⟨l, n, hw, rfl⟩ | ⟨l, f, n, hw, p, hp, rfl⟩
  · have hread : abortReader s = closeLayout l .aborted 0 0 (discardReads s) := by rw [abortReader, hw]
    have hup : (discardReads s).port.linkUp = true := (discardReads_keeps_port s).linkUp.trans h
    obtain ⟨tail, htail⟩ := closeLayout_posts hup l .aborted 0 0
    rw [hread]
    rw [(discardReads_port s).2, discardReads_reader_idle (x := x) (by rw [hw]; rfl), haborted] at htail
    exact ⟨tail, htail⟩
  · have hread : abortReader s = closeLayout l .aborted 0 0 (setWork .idle s) := by rw [abortReader, hw]
    rw [hread]
    exact closeLayout_posts (t := setWork .idle s) h l .aborted 0 0
  · have hread : abortReader s = closeLayout l .done f (parkMask s) (setWork .idle s) := by rw [abortReader, hw]
    have hmask : parkMask s = p := BitVec.eq_of_getLsbD_eq fun i hi =>
      (parkMask_bit s ⟨i, hi⟩).trans (hp ⟨i, hi⟩).symm
    rw [hread, ← hmask]
    exact closeLayout_posts (t := setWork .idle s) h l .done f (parkMask s)

/-! ## The end of ABORTING (R187) -/

/-- The end of an ABORT: STOPPED exactly when nothing is left, the bands and everything but page state, work, flag
and message kept. -/
theorem abortEnds_spec {s : State} (he : s.ctl.engine = .aborting) :
    (abortEnds s).ctl.engine = (if workDone (abortEnds s) then .stopped else .aborting) ∧
    (abortEnds s).ctl.cause = s.ctl.cause ∧ OnlyChanges [.reader, .win, .ctl, .port] s (abortEnds s) ∧
    PortKeeps s.port (abortEnds s).port ∧
    (abortEnds s).ctl.events.getLsbD 5 = s.ctl.events.getLsbD 5 ∧
    ((abortEnds s).win = s.win ∨ (abortEnds s).win = clearedPages s.win) ∧
    ((abortEnds s).reader = s.reader ∨
      (nothingTaken s = true ∧ (abortEnds s).reader = { s.reader with work := .idle })) := by
  by_cases hd : workDone s = true
  · rw [abortEnds_of_done he hd]
    generalize hu : setEngine .stopped (setWork .idle (s.withWin (clearedPages s.win))) = u
    obtain ⟨hbands, htaken, hfailed, hstaged⟩ := (workDone_iff s).1 hd
    have hkeeps := raise_keeps_port .stoppedEvent u
    have honly := raise_onlyChanges .stoppedEvent u
    have huonly : OnlyChanges [.win, .reader, .ctl] s u := by
      rw [← hu]
      exact ((withWin_onlyChanges s _).trans (withReader_onlyChanges _ _)).trans (withCtl_onlyChanges _ _)
    have hctl : u.ctl = { s.ctl with engine := .stopped } := by rw [← hu]; rfl
    have hwin : u.win = clearedPages s.win := by rw [← hu]; rfl
    have hreader : u.reader = { s.reader with work := .idle } := by rw [← hu]; rfl
    have hfailed' : (raise .stoppedEvent u).port.failed = [] := by
      obtain ⟨tail, h⟩ := raise_port_adds .stoppedEvent u
      rw [h, ← hfailed, ← huonly .port (by decide)]
    have hdone : workDone (raise .stoppedEvent u) = true := by
      refine (workDone_iff _).2 ⟨?_, ?_, hfailed', fun g => ?_⟩
      · rw [honly .win (by decide), hwin]
        exact hbands
      · rw [nothingTaken, raise_reader, hreader]
      · rw [honly.map_eq (by decide), huonly.map_eq (by decide)]
        exact hstaged g
    refine ⟨?_, ?_, (huonly.trans honly).mono (by decide), ?_, ?_, .inr ?_, .inr ⟨htaken, ?_⟩⟩
    · rw [hdone, raise_engine, hctl]; rfl
    · rw [raise_ctl, hctl]
    · rwa [huonly .port (by decide)] at hkeeps
    · rw [raise_headParked_bit, hctl]
      exact Bool.or_false _
    · rw [honly .win (by decide), hwin]
    · rw [raise_reader, hreader]
  · rw [abortEnds_of_not fun k => hd k.2]
    exact ⟨by rw [if_neg hd, he], rfl, .refl _ s, .refl _, rfl, .inl rfl, .inl rfl⟩

/-! ## ABORT as a whole (R185) -/

theorem brokenOff_onlyChanges (s : State) : OnlyChanges [.chans, .heads, .port, .ctl] s (brokenOff s) := by
  intro p hp
  cases p <;> first | rfl | exact absurd (by decide) hp

theorem brokenOff_chan (s : State) (c : ChanId) : (brokenOff s).chan c = abortedChannel (s.chan c) :=
  getElem_tabulate 32 _ c

theorem brokenOff_head (s : State) (h : HeadId) : (brokenOff s).head h = abortedLink s.tick (s.head h) :=
  getElem_tabulate 16 _ h

theorem mem_parkingHeads {s : State} {h : HeadId} :
    h ∈ parkingHeads s ↔ (s.head h).service = .configuring ∨ (s.head h).service = .returning := by
  simp [parkingHeads, allHeads]

theorem clearedQueues_onlyChanges (s : State) : OnlyChanges [.reader, .posn, .win] s (clearedQueues s) := by
  intro p hp
  cases p <;> first | rfl | exact absurd (by decide) hp

/-- The state of ABORT before its end, part by part. -/
structure AbortedFrom (s a : State) : Prop where
  kept : a.layout = s.layout ∧ a.maps = s.maps ∧ a.tick = s.tick
  posn : a.posn = { s.posn with productQueue := [] }
  win : a.win = abortedPages s.win
  reader : ∃ w, a.reader = { s.reader with pokePending := false, work := w } ∧ readerXfer w = none
  editing : ∀ e n, s.reader.work = .editing e n → a.reader.work = .editing e n
  chan : ∀ c, a.chan c = { abortedChannel (s.chan c) with
    compose := if ∃ h ∈ parkingHeads s, c ∈ partnerChans s h then abortedPlace (brokenOff s) c else (s.chan c).compose }
  head : ∀ h, a.head h = abortedLink s.tick (s.head h)
  parked : a.ctl.events.getLsbD 5 = true ↔ s.ctl.events.getLsbD 5 = true ∨ ∃ h, h ∈ parkingHeads s
  port : PortKeeps (discardFetches s.port) a.port
  posts : s.port.linkUp = true → ∀ result : Word32,
    (∃ x l n, s.reader.work = .blockRead x l n ∧ result = 3) ∨
      (∃ l n, s.reader.work = .held (.layout l) n false ∧ result = 3) ∨
      (∃ l f n, s.reader.work = .configuring l f n ∧ ∃ p : BitVec 16,
        (∀ g : HeadId, p.getLsbD g.val = decide ((a.head g).service = .parked)) ∧ result = p ++ f ++ 1#8) →
    ∃ before after, a.port.outbox = s.port.outbox ++ before ++
      (postedWrite (addrPlus s.reader.addr 4) result ++ postedWrite s.reader.addr 0x300) ++ after

theorem abortedState_from (s : State) : AbortedFrom s (abortedState s) := by
  rw [abortedState_eq]
  have hbroken := brokenOff_onlyChanges s
  have hempty : ∀ c, ((brokenOff s).chan c).Cleared := fun c => by rw [brokenOff_chan]; exact ⟨rfl, rfl, rfl⟩
  obtain ⟨hponly, hpport, hpchan, hpbit⟩ := abortParks_spec (frozen_brokenOff s) hempty (parkingHeads s)
  have hposts := fun h => abortReader_posts (s := abortParks (parkingHeads s) (brokenOff s)) h
  have hstop := abortReader_stopped (abortParks (parkingHeads s) (brokenOff s))
  generalize abortParks (parkingHeads s) (brokenOff s) = p at hponly hpport hpchan hpbit hposts hstop
  generalize abortReader p = r at hposts hstop
  have hsp : OnlyChanges [.chans, .heads, .port, .ctl] s p := (hbroken.trans hponly).mono (by decide)
  have hsr : OnlyChanges [.chans, .heads, .port, .ctl, .reader] s r := (hsp.trans hstop.only).mono (by decide)
  have hlast := clearedQueues_onlyChanges r
  have hreader : p.reader = s.reader := hsp .reader (by decide)
  obtain ⟨w, hw, hxfer⟩ := hstop.reader
  have hhead : ∀ h, (clearedQueues r).head h = abortedLink s.tick (s.head h) := fun h => by
    rw [hlast.head_eq (by decide), hstop.only.head_eq (by decide), hponly.head_eq (by decide), brokenOff_head]
  have hport : (clearedQueues r).port = r.port := rfl
  refine ⟨⟨hsr .layout (by decide), hsr .maps (by decide), hsr .tick (by decide)⟩, ?_, ?_, ⟨w, ?_, hxfer⟩,
    fun e n he => ?_, fun c => ?_, hhead, ?_, hpport.trans hstop.port, fun hup result hr => ?_⟩
  · show { r.posn with productQueue := [] } = _
    rw [hsr .posn (by decide)]
  · show abortedPages r.win = _
    rw [hsr .win (by decide)]
  · show { r.reader with pokePending := false } = _
    rw [hw, hreader]
  · exact hstop.editing e n (by rw [hreader]; exact he)
  · rw [hlast.chan_eq (by decide), hstop.only.chan_eq (by decide), hpchan, brokenOff_chan]
    have hpartners : ∀ h, partnerChans (brokenOff s) h = partnerChans s h := fun h => rfl
    simp only [hpartners]
    split <;> rfl
  · show r.ctl.events.getLsbD 5 = true ↔ _
    rw [hstop.parked, hpbit]
    rfl
  · have hsame : ∀ g, (p.head g).service = ((clearedQueues r).head g).service := fun g => by
      rw [hhead, hponly.head_eq (by decide), brokenOff_head]
    obtain ⟨before, hbefore⟩ := hpport.outbox
    obtain ⟨after, hafter⟩ := hposts (hpport.linkUp.trans hup) result (by rw [hreader]; simpa only [hsame] using hr)
    refine ⟨before, after, ?_⟩
    rw [hport, hafter, hbefore, hreader]
    rfl

/-- What an edit's application is, by its kind (R29, R87, R90, R94 to R96). -/
theorem applyRecord_eq {s : State} (e : EditRecord) (hengine : s.ctl.engine ≠ .aborting) :
    let m := s.map e.head
    let limit := nozzleLimit s.layout e.head
    let a := applyEdit e.op limit e.indices m.active
    let b := m.staged.map fun st => applyEdit e.op limit e.indices st.set
    let staged := m.staged.map fun st => { st with set := (applyEdit e.op limit e.indices st.set).set }
    applyRecord e s =
      (if e.immediate then
          if a.set ≠ m.active ∨ staged ≠ m.staged then
            (seamChans s e.head).foldl (fun u c => flush c u)
              (s.setMap e.head { active := a.set, staged := staged, hold := newHold s e.head })
          else s
        else if e.op = .noOperation then s
        else if s.win.bands = [] then s.setMap e.head { m with active := a.set }
        else s.setMap e.head { m with staged := some { set := a.set, waiting := s.win.bands.length } },
        a.ignored || (e.immediate && (b.map EditResult.ignored).getD false),
        a.capacity || (e.immediate && (b.map EditResult.capacity).getD false)) := by
  intro m limit a b staged
  cases he : e.immediate with
  | true =>
    have hsets := immediateSets_eq limit e m
    have hchanged := changes_iff limit e m
    rw [applyRecord_of_immediate he, if_pos rfl, show (immediateSets (nozzleLimit s.layout e.head) e (s.map e.head)).2 =
      (immediateSets limit e m).2 from rfl, hsets]
    refine Prod.ext ?_ rfl
    split
    next hc =>
      rw [applyImmediate_of_change (hchanged.2 hc) hengine]
      show (seamChans s e.head).foldl _ (s.setMap e.head { (immediateSets limit e m).1 with hold := newHold s e.head }) = _
      rw [hsets]
    next hc => exact applyImmediate_of_same fun k => hc (hchanged.1 k)
  | false =>
    rw [applyRecord_of_staged he, if_neg Bool.false_ne_true, Bool.false_and, Bool.or_false, Bool.false_and, Bool.or_false]
    refine Prod.ext ?_ rfl
    by_cases hop : e.op = .noOperation
    · rw [if_pos hop]
      exact applyStaged_of_noOperation hop s
    · rw [if_neg hop]
      dsimp only
      rw [stagedMap_of_operation hop]
      dsimp only
      split <;> rfl

/-- Settles O25: the edit that completes first, then the parts of ABORT. -/
theorem abortFreezesAndParks : Obligations.AbortFreezesAndParks := by
  intro s hengine waits parks
  have hexec := exec_abort_of_working hengine
  refine ⟨fun e next hw hnot => ?_, fun hwaits => ?_⟩
  · intro m limit a b staged ignored capacity seam pins hold put u v
    have hedit : editWaits s e = false := (editWaits_eq_false_iff s e).2 hnot
    have hnotAborting : s.ctl.engine ≠ .aborting := by rcases hengine with h | h | h | h <;> rw [h] <;> nofun
    have happly : applyRecord e s = (u, ignored, capacity) := by
      rw [applyRecord_eq e hnotAborting, newHold_eq]
      rfl
    obtain ⟨hcomplete, hreader, hafter⟩ := completeEdit_spec s e next hw hedit
    have hu : u.reader = { s.reader with work := u.reader.work } := by
      have := (applyRecord_frame e s).1
      rwa [happly] at this
    have haddr : u.reader.addr = s.reader.addr := by rw [hu]
    have hv : completeEdit s = v := by
      rw [hcomplete, happly, closeEdit_eq]
      have hwork : setWork .idle (handOver (editUnit u.reader.addr e.notify ignored capacity) u) =
          handOver (editUnit u.reader.addr e.notify ignored capacity) (u.withReader { u.reader with work := .idle }) := by
        rw [handOver_withReader, setWork, handOver_reader]
      rw [hwork, haddr]
      rfl
    rw [hv] at hreader hafter
    have hidle : completeEdit v = v := completeEdit_eq_self v fun e' n' k => by rw [hreader] at k; cases k
    refine ⟨?_, hreader, hafter⟩
    have hengine' : v.ctl.engine = .running ∨ v.ctl.engine = .suspended ∨ v.ctl.engine = .draining ∨
        v.ctl.engine = .halted := by
      rcases hafter with h | h
      · rw [h]; exact hengine
      · exact .inr (.inr (.inr h))
    rw [hexec, hv, exec_abort_of_working hengine', hidle]
  · have hself : completeEdit s = s := completeEdit_eq_self s fun e n hw => by
      by_contra hno
      exact (editWaits_eq_false_iff s e).1 (Bool.eq_false_of_not_eq_true hno) (hwaits e n hw)
    rw [hself] at hexec
    have hfrom := abortedState_from s
    obtain ⟨haborting, hcause⟩ := abortedState_engine s
    generalize abortedState s = a at hexec hfrom haborting hcause
    obtain ⟨hend, hendcause, honly, hport, hbit, hwin, hreader⟩ := abortEnds_spec haborting
    generalize abortEnds a = t at hexec hend hendcause honly hport hbit hwin hreader
    obtain ⟨hlayout, hmaps, htick⟩ := hfrom.kept
    obtain ⟨w, hw, hxfer⟩ := hfrom.reader
    have hheads : ∀ h, t.head h = abortedLink s.tick (s.head h) := fun h => by
      rw [honly.head_eq (by decide), hfrom.head]
    have hwin' : t.win.bands = s.win.bands ∧ t.win.unbound = [] ∧ t.win.openPage = none ∧ t.win.firstPage = true := by
      rcases hwin with h | h <;> rw [h, hfrom.win] <;> exact ⟨rfl, rfl, rfl, rfl⟩
    have hreader' : t.reader.addr = s.reader.addr ∧ t.reader.listHead = s.reader.listHead ∧
        t.reader.pokePending = false ∧ readerXfer t.reader.work = none := by
      rcases hreader with h | ⟨-, h⟩ <;> rw [h, hw]
      · exact ⟨rfl, rfl, rfl, hxfer⟩
      · exact ⟨rfl, rfl, rfl, rfl⟩
    have hall := hfrom.port.trans hport
    refine ⟨t, hexec, fun e n he => ?_, hend, hendcause.trans hcause, (honly .posn (by decide)).trans hfrom.posn,
      (honly .layout (by decide)).trans hlayout, (honly .maps (by decide)).trans hmaps,
      (honly .tick (by decide)).trans htick, hwin'.1, hwin'.2.1, hwin'.2.2.1, hwin'.2.2.2, hreader'.1, hreader'.2.1,
      hreader'.2.2.1, hreader'.2.2.2, fun c => ?_, fun h => ?_, ?_, fun x hx => ?_, hall.grant rfl, hall.tags,
      fun result hup hr => ?_⟩
    · rcases hreader with h | ⟨htaken, -⟩
      · rw [h]; exact hfrom.editing e n he
      · rw [nothingTaken, hfrom.editing e n he] at htaken
        cases htaken
    · rw [honly.chan_eq (by decide), hfrom.chan]
      simp only [mem_parkingHeads]
      have hplace : abortedPlace (brokenOff s) c =
          match (t.head (headOf c)).returnBand, (s.chan c).next with
          | some r, some p => if p.band < r then firstLineFrom s c r else some p
          | some _, none | none, _ => (s.chan c).next := by
        unfold abortedPlace
        rw [hheads, brokenOff_head, brokenOff_chan]
        rfl
      rw [hplace]
      rfl
    · rw [hheads]
      rfl
    · rw [hbit, hfrom.parked]
      simp only [mem_parkingHeads]
      rfl
    · have hmem := hall.transfers x hx
      simpa using (List.mem_filter.1 hmem).2
    · obtain ⟨before, after, hout⟩ := hfrom.posts hup result (by
        simpa only [honly.head_eq (show Part.heads ∉ [.reader, .win, .ctl, .port] by decide)] using hr)
      obtain ⟨tail, htail⟩ := hport.outbox
      refine ⟨before, after ++ tail, ?_⟩
      rw [htail, hout]
      simp only [List.append_assoc]

end Sys2Proof.Machine

/-! PROOFS. The Band Window: closes, bindings and admissions (chapter 3). -/

namespace Sys2Proof.Machine

/-! ## Closes (R58 to R61, R64) -/

theorem resultWord_no_park (code : ResultCode) (flags : BitVec 8) :
    resultWord code flags 0 = BitVec.ofNat 32 (resultCode code + 256 * flags.toNat) := by
  have hcode : resultCode code < 256 := by cases code <;> decide
  have hflags := flags.isLt
  refine BitVec.eq_of_toNat_eq ?_
  have hlow : ((0#16 ++ flags : BitVec 24) ++ BitVec.ofNat 8 (resultCode code) : BitVec 32).toNat =
      flags.toNat * 256 + resultCode code := by
    rw [BitVec.toNat_append, BitVec.toNat_append, BitVec.toNat_ofNat, BitVec.toNat_ofNat, Nat.mod_eq_of_lt hcode,
      ← Nat.shiftLeft_add_eq_or_of_lt hcode]
    simp [Nat.shiftLeft_eq]
  rw [BitVec.toNat_ofNat, Nat.mod_eq_of_lt (by omega)]
  exact hlow.trans (by omega)

/-- A band's unit, write by write. -/
theorem bandUnit_eq (addr : Addr) (result : Word32) (f0 f1 f2 f3 f4 f5 anchor : Nat) (line : Word32) (notify : Bool) :
    bandUnit addr result [f0, f1, f2, f3, f4, f5] anchor line.toNat notify =
      { writes := [(addr + 4, result), (addr + 24, BitVec.ofNat 32 f0), (addr + 28, BitVec.ofNat 32 f1),
          (addr + 32, BitVec.ofNat 32 f2), (addr + 36, BitVec.ofNat 32 f3), (addr + 40, BitVec.ofNat 32 f4),
          (addr + 44, BitVec.ofNat 32 f5), (addr + 48, BitVec.ofNat 32 anchor), (addr + 52, line), (addr, 0x100)]
        notify := notify } := by
  have hline : BitVec.ofNat 32 line.toNat = line := by rw [BitVec.ofNat_toNat, BitVec.setWidth_eq]
  conv => rhs; rw [← hline]
  rfl

/-- The unit of a closing band. -/
theorem closeUnit_eq (s : State) (code : ResultCode) (hcode : code = .done ∨ code = .late ∨ code = .aborted)
    (b : BandEntry) :
    closeUnit s code b =
      let n := fun (k : Nat) => if code = .late then (0#32 : Word32) else BitVec.ofNat 32 k
      let flags := bandFlags (if code = .late
        then { b with fired := 0, starved := 0, dropped := 0, skipped := 0, dataFaults := 0, lost := 0 } else b)
      { writes := [(b.addr + 4, BitVec.ofNat 32 (resultCode code + 256 * flags.toNat)), (b.addr + 24, n b.fired),
          (b.addr + 28, n b.starved), (b.addr + 32, n b.dropped), (b.addr + 36, n b.skipped),
          (b.addr + 40, n b.dataFaults), (b.addr + 44, n b.lost),
          (b.addr + 48, BitVec.ofNat 32 (anchorField s b)), (b.addr + 52, s.posn.pos.line), (b.addr, 0x100)]
        notify := b.notify } := by
  unfold closeUnit
  rcases hcode with rfl | rfl | rfl
  all_goals
    dsimp only
    rw [resultWord_no_park, bandCounts, bandUnit_eq]
    rfl

/-- The head band's close code. -/
theorem closeCode_of_aborting {s : State} (h : s.ctl.engine = .aborting) (b : BandEntry) :
    closeCode s b = some .aborted := by
  unfold closeCode
  rw [h]

theorem closeCode_of_idle {s : State} (h : s.ctl.engine = .stopped ∨ s.ctl.engine = .halted) (b : BandEntry) :
    closeCode s b = none := by
  unfold closeCode
  rcases h with h | h <;> rw [h]

theorem closeCode_of_working {s : State} (h : working s = true) (b : BandEntry) :
    closeCode s b = if b.late then some .late
      else if ((bandPage s b).bind boundAnchor).isSome && b.outstanding == 0 then some .done else none := by
  rcases working_iff s |>.1 h with h | h | h <;> unfold closeCode <;> rw [h]

theorem boundAnchor_isSome_iff (s : State) (b : BandEntry) :
    ((bandPage s b).bind boundAnchor).isSome = true ↔ ∃ p a, findPage s b.page = some p ∧ p.binding = .bound a := by
  unfold bandPage
  cases findPage s b.page with
  | none => simp
  | some p =>
    show (boundAnchor p).isSome = true ↔ _
    unfold boundAnchor
    cases hb : p.binding <;> simp [hb]

theorem exec_bandClose_of_code {s : State} {b : BandEntry} {bs : List BandEntry} (hb : s.win.bands = b :: bs)
    {code : ResultCode} (hc : closeCode s b = some code) : exec .bandClose s = .next (closeHead code b s) := by
  show execBandClose s = _
  unfold execBandClose
  rw [hb]
  dsimp only
  rw [hc]

theorem exec_bandClose_of_none {s : State} {b : BandEntry} {bs : List BandEntry} (hb : s.win.bands = b :: bs)
    (hc : closeCode s b = none) : exec .bandClose s = .next s := by
  show execBandClose s = _
  unfold execBandClose
  rw [hb]
  dsimp only
  rw [hc]

theorem removeHeadBand_onlyChanges (b : BandEntry) (s : State) :
    OnlyChanges [.win, .maps, .chans, .heads] s (removeHeadBand b s) := by
  obtain ⟨hpending, htick, hposn, hreader, hlayout, hport, hctl, -⟩ := removeHeadBand_spec b s
  intro p hp
  cases p with
  | pending => exact hpending
  | tick => exact htick
  | posn => exact hposn
  | reader => exact hreader
  | layout => exact hlayout
  | port => exact hport
  | ctl => exact hctl
  | win => simp at hp
  | maps => simp at hp
  | chans => simp at hp
  | heads => simp at hp

/-- Settles O39, by the head band's close code. -/
theorem headBandCloses : Obligations.HeadBandCloses := by
  intro s b bs hb bound closes
  have hcloses : ∀ code, code = .done ∨ code = .late ∨ code = .aborted → closeCode s b = some code → closes code := by
    intro code hcode hc
    have hexec := exec_bandClose_of_code hb hc
    rw [closeHead, closeUnit_eq s code hcode b] at hexec
    generalize hu : (WriteUnit.mk _ _) = u at hexec
    have hkept := handOver_onlyChanges u s
    obtain ⟨-, -, -, -, -, hport, hctl, hwin, hmaps, -⟩ := removeHeadBand_spec b (handOver u s)
    subst hu
    refine ⟨_, hexec, ?_, hport, hctl, fun h => ?_,
      (hkept.trans (removeHeadBand_onlyChanges b _)).mono (by decide)⟩
    · rw [hwin, hkept .win (by decide), hb]
      rfl
    · obtain ⟨hactive, hstaged⟩ := hmaps h
      rw [hkept.map_eq (by decide)] at hactive hstaged
      exact ⟨hactive, hstaged⟩
  have hbound := boundAnchor_isSome_iff s b
  refine ⟨fun he => hcloses _ (.inr (.inr rfl)) (closeCode_of_aborting he b), fun hw hl => hcloses _ (.inr (.inl rfl)) ?_,
    fun hw hl hbd ho => hcloses _ (.inl rfl) ?_, fun hw hl hno => exec_bandClose_of_none hb ?_,
    fun he => exec_bandClose_of_none hb (closeCode_of_idle he b)⟩
  · rw [closeCode_of_working hw, hl, if_pos rfl]
  · rw [closeCode_of_working hw, hl, if_neg Bool.false_ne_true, hbound.2 hbd, ho]
    rfl
  · rw [closeCode_of_working hw, hl, if_neg Bool.false_ne_true, if_neg]
    rw [Bool.and_eq_true, beq_iff_eq]
    exact fun k => hno ⟨hbound.1 k.1, k.2⟩

end Sys2Proof.Machine

/-! PROOFS. The Layout Store: how a block is judged, rejected or applied (chapter 4). -/

namespace Sys2Proof.Machine

/-! ## The seven checks (R70) -/

/-- A present head of a block. -/
def Present (b : LayoutBlock) (h : Nat) (r : RawHead) : Prop := b.heads[h]? = some (some r)

theorem any_presentHeads_eq_false {b : LayoutBlock} {p : Nat × RawHead → Bool} :
    (presentHeads b).any p = false ↔ ∀ h r, Present b h r → p (h, r) = false := by
  rw [List.any_eq_false]
  constructor
  · intro h k r hr
    exact Bool.eq_false_of_not_eq_true (h (k, r) (mem_presentHeads.2 hr))
  · rintro h ⟨k, r⟩ hx
    rw [h k r (mem_presentHeads.1 hx)]
    exact Bool.false_ne_true

/-- Two present heads of one plane. -/
def SamePlane (b : LayoutBlock) (h : Nat) (r : RawHead) (k : Nat) (q : RawHead) : Prop :=
  Present b h r ∧ Present b k q ∧ h ≠ k ∧ r.plane = q.plane

/-- The pairs of present heads of one plane that checks 5 to 7 look at. -/
def headPairs (b : LayoutBlock) : List ((Nat × RawHead) × (Nat × RawHead)) :=
  (presentHeads b).flatMap fun x =>
    ((presentHeads b).filter fun y => decide (x.1 ≠ y.1) && x.2.plane == y.2.plane).map fun y => (x, y)

theorem mem_headPairs {b : LayoutBlock} {h k : Nat} {r q : RawHead} :
    ((h, r), (k, q)) ∈ headPairs b ↔ SamePlane b h r k q := by
  simp only [headPairs, List.mem_flatMap, List.mem_map, List.mem_filter, Bool.and_eq_true, decide_eq_true_eq, beq_iff_eq,
    Prod.mk.injEq]
  constructor
  · rintro ⟨x, hx, y, ⟨hy, hne, hplane⟩, rfl, rfl⟩
    exact ⟨mem_presentHeads.1 hx, mem_presentHeads.1 hy, hne, hplane⟩
  · rintro ⟨hr, hq, hne, hplane⟩
    exact ⟨_, mem_presentHeads.2 hr, _, ⟨mem_presentHeads.2 hq, hne, hplane⟩, rfl, rfl⟩

theorem any_headPairs_eq_false {b : LayoutBlock} {p : (Nat × RawHead) × (Nat × RawHead) → Bool} :
    (headPairs b).any p = false ↔ ∀ h r k q, SamePlane b h r k q → p ((h, r), (k, q)) = false := by
  rw [List.any_eq_false]
  constructor
  · intro h i r k q hp
    exact Bool.eq_false_of_not_eq_true (h _ (mem_headPairs.2 hp))
  · rintro h ⟨⟨i, r⟩, k, q⟩ hx
    rw [h i r k q (mem_headPairs.1 hx)]
    exact Bool.false_ne_true

theorem planeWidth_ne_zero (b : LayoutBlock) (r : RawHead) :
    planeWidth b r ≠ 0 ↔ r.plane < 8 ∧ b.widths.getD r.plane 0 ≠ 0 := by
  unfold planeWidth
  split
  next h => simp [h]
  next h => simp [h]

theorem planeWidth_of_lt {b : LayoutBlock} {r : RawHead} (h : r.plane < 8) :
    planeWidth b r = b.widths.getD r.plane 0 := if_pos h

theorem checkFails_one (b : LayoutBlock) : checkFails b 1 = false ↔ ∀ w ∈ b.widths, w ≤ 65536 := by
  simp [checkFails]

theorem checkFails_two (b : LayoutBlock) : checkFails b 2 = false ↔ ∀ h r, Present b h r → planeWidth b r ≠ 0 := by
  refine any_presentHeads_eq_false.trans ?_
  simp only [decide_eq_false_iff_not, ne_eq]

theorem checkFails_three (b : LayoutBlock) :
    checkFails b 3 = false ↔ ∀ h r, Present b h r → 256 ≤ r.nozzles ∧ r.nozzles ≤ 4096 ∧ r.nozzles % 64 = 0 := by
  refine any_presentHeads_eq_false.trans ?_
  simp only [decide_eq_false_iff_not, not_or, not_lt, not_not]

theorem checkFails_four (b : LayoutBlock) :
    checkFails b 4 = false ↔ ∀ h r, Present b h r → r.spanEnd ≤ planeWidth b r := by
  refine any_presentHeads_eq_false.trans ?_
  simp only [decide_eq_false_iff_not, not_lt]

theorem checkFails_five (b : LayoutBlock) :
    checkFails b 5 = false ↔
      ∀ h r k q, SamePlane b h r k q → ¬(q.firstColumn ≤ r.firstColumn ∧ r.spanEnd ≤ q.spanEnd) := by
  refine any_headPairs_eq_false.trans ?_
  simp only [spanWithin, decide_eq_false_iff_not]

theorem checkFails_six (b : LayoutBlock) :
    checkFails b 6 = false ↔ ∀ h r k q, SamePlane b h r k q → ∀ j u, Present b j u → j ≠ h → j ≠ k →
      u.plane = r.plane → shareColumn r q u = false := by
  refine any_headPairs_eq_false.trans ?_
  simp only [any_presentHeads_eq_false, Bool.and_eq_false_iff, decide_eq_false_iff_not, not_not, beq_eq_false_iff_ne]
  constructor
  · intro hall h r k q hp j u hu hh hk hplane
    rcases hall h r k q hp j u hu with ((he | he) | he) | he
    · exact absurd he hh
    · exact absurd he hk
    · exact absurd hplane he
    · exact he
  · intro hall h r k q hp j u hu
    by_cases hh : j = h
    · exact .inl (.inl (.inl hh))
    · by_cases hk : j = k
      · exact .inl (.inl (.inr hk))
      · by_cases hplane : u.plane = r.plane
        · exact .inr (hall h r k q hp j u hu hh hk hplane)
        · exact .inl (.inr hplane)

/-- `q` is the neighbour after `r` among the present heads of its plane. -/
def Neighbours (b : LayoutBlock) (r q : RawHead) : Prop :=
  r.firstColumn < q.firstColumn ∧ ∀ j u, Present b j u → u.plane = r.plane →
    ¬(r.firstColumn < u.firstColumn ∧ u.firstColumn < q.firstColumn)

theorem neighbourAfter_iff (b : LayoutBlock) (r q : RawHead) :
    neighbourAfter (presentHeads b) r q = true ↔ Neighbours b r q := by
  unfold neighbourAfter Neighbours
  rw [Bool.and_eq_true, decide_eq_true_eq, List.all_eq_true]
  refine and_congr_right fun _ => ?_
  constructor
  · intro hall j u hu hplane ⟨h1, h2⟩
    have := hall (j, u) (mem_presentHeads.2 hu)
    simp [hplane, h1, h2] at this
  · rintro hall ⟨j, u⟩ hx
    have := hall j u (mem_presentHeads.1 hx)
    simp only [Bool.not_eq_true', Bool.and_eq_false_iff, beq_eq_false_iff_ne, decide_eq_false_iff_not]
    by_cases hplane : u.plane = r.plane
    · by_cases h1 : r.firstColumn < u.firstColumn
      · exact .inr fun h2 => this hplane ⟨h1, h2⟩
      · exact .inl (.inr h1)
    · exact .inl (.inl hplane)

theorem checkFails_seven (b : LayoutBlock) :
    checkFails b 7 = false ↔
      ∀ h r k q, SamePlane b h r k q → Neighbours b r q → sharedColumns r q ≤ 64 := by
  refine any_headPairs_eq_false.trans ?_
  refine forall_congr' fun h => forall_congr' fun r => forall_congr' fun k => forall_congr' fun q =>
    forall_congr' fun _ => ?_
  rw [← neighbourAfter_iff, Bool.and_eq_false_iff, decide_eq_false_iff_not, not_lt]
  cases neighbourAfter (presentHeads b) r q <;> simp

/-! ## Columns of spans -/

/-- A column of a head's span. -/
def Column (r : RawHead) (x : Nat) : Prop := r.firstColumn ≤ x ∧ x < r.firstColumn + r.nozzles

/-- A span that is not empty has a column outside another exactly when it does not lie within it. -/
theorem column_outside_iff {r : RawHead} (hr : 0 < r.nozzles) (q : RawHead) :
    (∃ x, Column r x ∧ ¬Column q x) ↔ ¬(q.firstColumn ≤ r.firstColumn ∧ r.spanEnd ≤ q.spanEnd) := by
  simp only [Column, RawHead.spanEnd]
  constructor
  · rintro ⟨x, hx, hq⟩ ⟨h1, h2⟩
    omega
  · intro h
    by_cases hfirst : q.firstColumn ≤ r.firstColumn
    · exact ⟨r.firstColumn + r.nozzles - 1, by omega, by omega⟩
    · exact ⟨r.firstColumn, by omega, by omega⟩

theorem shareColumn_eq_false_iff (r q u : RawHead) :
    shareColumn r q u = false ↔ ¬∃ x, Column r x ∧ Column q x ∧ Column u x := by
  unfold shareColumn
  rw [decide_eq_false_iff_not]
  simp only [Column, RawHead.spanEnd]
  refine not_congr ⟨fun h => ⟨max r.firstColumn (max q.firstColumn u.firstColumn), ?_⟩, ?_⟩
  · omega
  · rintro ⟨x, hr, hq, hu⟩
    omega

/-- What neighbours share, the right one being wider than 64 columns. -/
theorem sharedColumns_le_iff {r q : RawHead} (hlt : r.firstColumn < q.firstColumn) (hq : 64 < q.nozzles) :
    sharedColumns r q ≤ 64 ↔ r.firstColumn + r.nozzles ≤ q.firstColumn + 64 := by
  simp only [sharedColumns, RawHead.spanEnd]
  omega

/-- The reason of a rejected block is the first check that fails. -/
theorem judge_eq_some_iff (b : LayoutBlock) (n : Nat) :
    judge b = some n ↔ 1 ≤ n ∧ n ≤ 7 ∧ checkFails b n = true ∧ ∀ m, 1 ≤ m → m < n → checkFails b m = false := by
  have hlist : judge b = ((List.range 7).map (1 + ·)).find? (checkFails b) := rfl
  rw [hlist, List.find?_map, Option.map_eq_some_iff]
  constructor
  · rintro ⟨i, hi, rfl⟩
    obtain ⟨hp, hmem, hfirst⟩ := List.find?_range_eq_some.1 hi
    have := List.mem_range.1 hmem
    refine ⟨by omega, by omega, hp, fun m h1 hm => ?_⟩
    have hm' := hfirst (m - 1) (by omega)
    simpa [show 1 + (m - 1) = m by omega] using hm'
  · rintro ⟨h1, h7, hn, hfirst⟩
    refine ⟨n - 1, List.find?_range_eq_some.2 ⟨?_, List.mem_range.2 (by omega), fun j hj => ?_⟩, by omega⟩
    · simpa [show 1 + (n - 1) = n by omega] using hn
    · simpa using hfirst (1 + j) (by omega) (by omega)

theorem judge_eq_none_iff_checks (b : LayoutBlock) :
    judge b = none ↔ checkFails b 1 = false ∧ checkFails b 2 = false ∧ checkFails b 3 = false ∧ checkFails b 4 = false ∧
      checkFails b 5 = false ∧ checkFails b 6 = false ∧ checkFails b 7 = false := by
  rw [judge_eq_none_iff]
  simp

theorem exec_layoutBlockReadComplete {s : State} {x : Nat} {l : LayoutRecord} {next : Addr} {bs : List Byte}
    (hw : s.reader.work = .blockRead x l next) (hb : transferBytes s.port x = some bs) (hworks : working s = true) :
    exec .layoutBlockReadComplete s = .next (judgeBlock l next bs (discard x s)) := by
  show execLayoutBlockReadComplete s = _
  unfold execLayoutBlockReadComplete
  rw [hw]
  dsimp only
  rw [hb]
  exact if_pos hworks

/-- Settles O45: the checks one by one, and the rejection's unit and halt. -/
theorem layoutJudgedAndRejected : Obligations.LayoutJudgedAndRejected := by
  refine ⟨fun b => ⟨judge_eq_some_iff b, ?_⟩, fun s x l next bs reason hw hb hworks hjudge => ?_⟩
  · rw [judge_eq_none_iff_checks, checkFails_one, checkFails_two, checkFails_three, checkFails_four, checkFails_five,
      checkFails_six, checkFails_seven]
    constructor
    · rintro ⟨h1, h2, h3, h4, h5, h6, h7⟩
      refine ⟨h1, fun h r hr => ?_, fun h r k q hr hq hne hplane => ⟨?_, fun j u hu hh hk hu' => ?_, fun hlt hnone => ?_⟩⟩
      · obtain ⟨hplane, hwidth⟩ := (planeWidth_ne_zero b r).1 (h2 h r hr)
        obtain ⟨hlow, hhigh, hmod⟩ := h3 h r hr
        have hspan := h4 h r hr
        rw [planeWidth_of_lt hplane] at hspan
        exact ⟨hplane, hwidth, hlow, hhigh, hmod, hspan⟩
      · exact (column_outside_iff (by have := (h3 h r hr).1; omega) q).2 (h5 h r k q ⟨hr, hq, hne, hplane⟩)
      · exact (shareColumn_eq_false_iff r q u).1 (h6 h r k q ⟨hr, hq, hne, hplane⟩ j u hu hh hk hu')
      · have hwide := (h3 k q hq).1
        exact (sharedColumns_le_iff hlt (by omega)).1 (h7 h r k q ⟨hr, hq, hne, hplane⟩ ⟨hlt, hnone⟩)
    · rintro ⟨h1, hheads, hpairs⟩
      refine ⟨h1, fun h r hr => ?_, fun h r hr => ?_, fun h r hr => ?_, ?_, ?_, ?_⟩
      · obtain ⟨hplane, hwidth, -⟩ := hheads h r hr
        exact (planeWidth_ne_zero b r).2 ⟨hplane, hwidth⟩
      · obtain ⟨-, -, hlow, hhigh, hmod, -⟩ := hheads h r hr
        exact ⟨hlow, hhigh, hmod⟩
      · obtain ⟨hplane, -, -, -, -, hspan⟩ := hheads h r hr
        rwa [planeWidth_of_lt hplane]
      · rintro h r k q ⟨hr, hq, hne, hplane⟩
        obtain ⟨-, -, hlow, -⟩ := hheads h r hr
        exact (column_outside_iff (by omega) q).1 (hpairs h r k q hr hq hne hplane).1
      · rintro h r k q ⟨hr, hq, hne, hplane⟩ j u hu hh hk hu'
        exact (shareColumn_eq_false_iff r q u).2 ((hpairs h r k q hr hq hne hplane).2.1 j u hu hh hk hu')
      · rintro h r k q ⟨hr, hq, hne, hplane⟩ ⟨hlt, hnone⟩
        obtain ⟨-, -, hlow, -⟩ := hheads k q hq
        exact (sharedColumns_le_iff hlt (by omega)).2 ((hpairs h r k q hr hq hne hplane).2.2 hlt hnone)
  · obtain ⟨h1, h7, -⟩ := (judge_eq_some_iff _ _).1 hjudge
    have hreason : (BitVec.ofNat 8 reason).toNat = reason := by
      rw [BitVec.toNat_ofNat]
      exact Nat.mod_eq_of_lt (by omega)
    rw [exec_layoutBlockReadComplete hw hb hworks]
    unfold judgeBlock
    dsimp only
    rw [hjudge]
    dsimp only
    rw [closeLayout, resultWord_no_park, hreason]
    rfl

/-! ## The application (R69, R72, R73, R76, R78 to R80) -/

/-- The bits of a flag byte, bit 0 first. -/
theorem flagByte_bits (b0 b1 b2 b3 b4 b5 b6 b7 : Bool) (i : Nat) :
    (flagByte b0 b1 b2 b3 b4 b5 b6 b7).getLsbD i = [b0, b1, b2, b3, b4, b5, b6, b7].getD i false := by
  match i with
  | 0 | 1 | 2 | 3 | 4 | 5 | 6 | 7 =>
    simp only [flagByte, BitVec.getLsbD_append]
    simp
  | n + 8 => simp [flagByte]

theorem clampNat_eq (lo hi v : Nat) (h : lo ≤ hi) : clampNat lo hi v = max lo (min v hi) := by
  unfold clampNat
  omega

theorem clampNat_ne_iff (lo hi v : Nat) (h : lo ≤ hi) : clampNat lo hi v ≠ v ↔ v < lo ∨ hi < v := by
  unfold clampNat
  omega

theorem clampTrim_ne_iff (v : Int) : clampTrim v ≠ v ↔ v < -64 ∨ 63 < v := by
  unfold clampTrim
  omega

theorem clampTrim_eq (v : Int) : clampTrim v = max (-64) (min v 63) := by
  unfold clampTrim
  omega

theorem clampLanes_eq (v : Nat) : clampLanes v = if v = 2 ∨ v = 4 then v else 1 := by
  unfold clampLanes
  split_ifs <;> omega

theorem clampLanes_ne_iff (v : Nat) : clampLanes v ≠ v ↔ v ≠ 1 ∧ v ≠ 2 ∧ v ≠ 4 := by
  unfold clampLanes
  split_ifs <;> omega

/-- Some present head of a block has a property. -/
theorem any_presentHeads_iff {b : LayoutBlock} {p : RawHead → Prop} [DecidablePred p] :
    ((presentHeads b).any fun x => decide (p x.2)) = true ↔ ∃ r, some r ∈ b.heads ∧ p r := by
  simp only [List.any_eq_true, decide_eq_true_eq]
  constructor
  · rintro ⟨⟨h, r⟩, hx, hp⟩
    exact ⟨r, List.mem_of_getElem? (mem_presentHeads.1 hx), hp⟩
  · rintro ⟨r, hr, hp⟩
    obtain ⟨h, hh⟩ := List.getElem?_of_mem hr
    exact ⟨(h, r), mem_presentHeads.2 hh, hp⟩

/-- Trimming changes a map exactly when some index of ACTIVE is not below NOZZLES. -/
theorem trimmedMap_ne_iff (l : Layout) (h : HeadId) (m : NozzleMap) :
    trimmedMap l h m ≠ m ↔ ∃ e, l.heads[h] = some e ∧ ∃ i ∈ m.active, e.nozzles ≤ i := by
  unfold trimmedMap
  cases he : l.heads[h] with
  | none => simp
  | some e =>
    cases m
    simp [List.filter_eq_self]

theorem trims_iff (l : Layout) (s : State) :
    trims l s = true ↔ ∃ (h : HeadId) (e : HeadEntry), l.heads[h] = some e ∧ ∃ i ∈ (s.map h).active, e.nozzles ≤ i := by
  simp only [trims, List.any_eq_true, decide_eq_true_eq, trimmedMap_ne_iff]
  constructor
  · rintro ⟨h, -, hh⟩
    exact ⟨h, hh⟩
  · rintro ⟨h, hh⟩
    exact ⟨h, List.mem_finRange h, hh⟩

theorem trimmedMap_fields (l : Layout) (h : HeadId) (m : NozzleMap) :
    (trimmedMap l h m).active = (match l.heads[h] with
      | some e => m.active.filter fun i => decide (i < e.nozzles)
      | none => m.active) ∧ (trimmedMap l h m).staged = m.staged ∧ (trimmedMap l h m).hold = m.hold := by
  unfold trimmedMap
  cases l.heads[h] <;> exact ⟨rfl, rfl, rfl⟩

/-- A present head's entry, field by field. -/
theorem clampHead_fields (r : RawHead) :
    (clampHead r).plane.val = r.plane % 8 ∧ (clampHead r).inService = r.inService ∧
    (clampHead r).firstColumn = r.firstColumn ∧ (clampHead r).nozzles = r.nozzles ∧
    (clampHead r).period = max 500 (min r.period 65535) ∧ (clampHead r).trim = max (-64) (min r.trim 63) ∧
    (clampHead r).lanes = (if r.lanes = 2 ∨ r.lanes = 4 then r.lanes else 1) ∧
    (clampHead r).headOffset = r.headOffset ∧ (clampHead r).rowOffset = r.rowOffset ∧
    (clampHead r).waveform = BitVec.ofNat 4 r.waveform ∧ (clampHead r).level1 = BitVec.ofNat 3 r.level1 ∧
    (clampHead r).level2 = BitVec.ofNat 3 r.level2 ∧ (clampHead r).level3 = BitVec.ofNat 3 r.level3 :=
  ⟨rfl, rfl, rfl, rfl, clampNat_eq 500 65535 _ (by decide), clampTrim_eq _, clampLanes_eq _, rfl, rfl, rfl, rfl, rfl, rfl⟩

/-- A head after the application, field by field. -/
theorem applyLayout_head_fields (l : Layout) (s : State) (h : HeadId) :
    ((applyLayout l s).head h).service = (match l.heads[h] with
      | none => .absent
      | some e => if e.inService then .configuring else .outOfService) ∧
    ((applyLayout l s).head h).returnBand = none ∧ ((applyLayout l s).head h).ready = false ∧
    ((applyLayout l s).head h).timer = none ∧ ((applyLayout l s).head h).link = (s.head h).link ∧
    ((applyLayout l s).head h).shadow = (s.head h).shadow ∧
    ((applyLayout l s).head h).frame = (s.head h).frame.map (fun f => { f with stale := true }) ∧
    ((applyLayout l s).head h).again = none ∧
    (((applyLayout l s).head h).service = .configuring → ((applyLayout l s).head h).config = some false ∧
      ∃ k, (k = .config ∨ k = .query) ∧ ((applyLayout l s).head h).queue = [{ kind := k, joined := s.tick }]) ∧
    (((applyLayout l s).head h).service ≠ .configuring →
      ((applyLayout l s).head h).config = none ∧ ((applyLayout l s).head h).queue = []) := by
  rw [applyLayout_head]
  split
  next hc =>
    refine ⟨rfl, rfl, rfl, rfl, rfl, rfl, rfl, rfl, fun _ => ⟨rfl, configKind (laidOut l s) h, ?_, rfl⟩, fun k => absurd hc k⟩
    unfold configKind
    split
    · exact .inr rfl
    · exact .inl rfl
  next hc => exact ⟨rfl, rfl, rfl, rfl, rfl, rfl, rfl, rfl, fun k => absurd k hc, fun _ => ⟨rfl, rfl⟩⟩

theorem appliedChannel_eq (l : Layout) (c : ChanId) (ch : Channel) :
    appliedChannel (chanEntry (some l) c) ch = { Channel.reset with
      lastFire := ch.lastFire
      pulseEnd := if l.heads[headOf c] = none then none else ch.pulseEnd } := by
  have hentry : chanEntry (some l) c = l.heads[headOf c] := rfl
  unfold appliedChannel
  rw [hentry]
  cases l.heads[headOf c] <;> rfl

theorem laidOut_onlyChanges (l : Layout) (s : State) :
    OnlyChanges [.layout, .maps, .chans, .heads] s (laidOut l s) := by
  intro p hp
  cases p <;> first | rfl | exact absurd (by decide) hp

/-- What each bit of a layout's flag byte says (R69, R80). -/
theorem layoutFlags_bits (b : LayoutBlock) (trimmed : Bool) :
    ((layoutFlags b trimmed).getLsbD 0 = true ↔ b.increment < 1 ∨ 16777216 < b.increment) ∧
    ((layoutFlags b trimmed).getLsbD 1 = true ↔ ∃ r, some r ∈ b.heads ∧ (r.period < 500 ∨ 65535 < r.period)) ∧
    ((layoutFlags b trimmed).getLsbD 2 = true ↔
      ∃ r, some r ∈ b.heads ∧ r.lanes ≠ 1 ∧ r.lanes ≠ 2 ∧ r.lanes ≠ 4) ∧
    ((layoutFlags b trimmed).getLsbD 3 = true ↔ ∃ r, some r ∈ b.heads ∧ (r.trim < -64 ∨ 63 < r.trim)) ∧
    (layoutFlags b trimmed).getLsbD 4 = trimmed ∧ (layoutFlags b trimmed).getLsbD 5 = false ∧
    (layoutFlags b trimmed).getLsbD 6 = false ∧ (layoutFlags b trimmed).getLsbD 7 = false := by
  simp only [layoutFlags, flagByte_bits, List.getD_cons_zero, List.getD_cons_succ,
    decide_eq_true_eq, clampLanes_ne_iff, clampTrim_ne_iff, clampNat_ne_iff 500 65535 _ (by decide),
    clampNat_ne_iff 1 Config.fracUnit _ (by decide)]
  exact ⟨Iff.rfl, any_presentHeads_iff (p := fun r => r.period < 500 ∨ 65535 < r.period),
    any_presentHeads_iff (p := fun r => r.lanes ≠ 1 ∧ r.lanes ≠ 2 ∧ r.lanes ≠ 4),
    any_presentHeads_iff (p := fun r => r.trim < -64 ∨ 63 < r.trim), trivial, trivial, trivial, trivial⟩

/-- Settles O46, by the layout's fields, the flags and the parts of the application. -/
theorem layoutAppliedInOneStep : Obligations.LayoutAppliedInOneStep := by
  intro s x l next bs hw hb hworks hjudge b
  have hexec : exec .layoutBlockReadComplete s =
      .next (setWork (.configuring l (layoutFlags b (trims (layoutOf b) s)) next)
        (setCond .configuringLayout (applyLayout (layoutOf b) (discard x s)))) := by
    rw [exec_layoutBlockReadComplete hw hb hworks]
    unfold judgeBlock
    dsimp only
    rw [hjudge]
    rfl
  obtain ⟨hinc, hperiod, hlanes, htrim, htrimmed, h5, h6, h7⟩ := layoutFlags_bits b (trims (layoutOf b) s)
  have hchanges : OnlyChanges [.layout, .maps, .chans, .heads, .port] s (applyLayout (layoutOf b) (discard x s)) :=
    ((discard_onlyChanges x s).trans ((laidOut_onlyChanges (layoutOf b) (discard x s)).trans
      (applyLayout_onlyChanges (layoutOf b) (discard x s)))).mono (by decide)
  have hlayout : (applyLayout (layoutOf b) (discard x s)).layout = some (layoutOf b) :=
    applyLayout_onlyChanges (layoutOf b) (discard x s) .layout (by decide)
  have hreader : (applyLayout (layoutOf b) (discard x s)).reader = s.reader := hchanges .reader (by decide)
  have hchan := fun c => (applyLayout_chan (layoutOf b) (discard x s) c).trans (appliedChannel_eq (layoutOf b) c (s.chan c))
  have hmap : ∀ h, (applyLayout (layoutOf b) (discard x s)).map h = trimmedMap (layoutOf b) h (s.map h) :=
    fun h => applyLayout_map (layoutOf b) (discard x s) h
  have hhead := applyLayout_head_fields (layoutOf b) (discard x s)
  rw [hexec]
  generalize happlied : applyLayout (layoutOf b) (discard x s) = t at hchanges hlayout hreader hchan hmap hhead
  refine ⟨_, layoutOf b, layoutFlags b (trims (layoutOf b) s), rfl, hlayout, clampNat_eq 1 16777216 _ (by decide), rfl,
    rfl, rfl, rfl, fun p => getElem_tabulate 8 _ p, fun i => getElem_tabulate 256 _ i,
    fun h => ⟨fun hn => ?_, fun r hr => ?_⟩, hinc, hperiod, hlanes, htrim, htrimmed.symm ▸ trims_iff (layoutOf b) s, h5, h6, h7,
    ?_, hchan, fun h => ?_, hhead, ?_⟩
  · rw [layoutOf_heads, hn]
    rfl
  · exact ⟨clampHead r, by rw [layoutOf_heads, hr]; rfl, clampHead_fields r⟩
  · rw [← hreader]
    rfl
  · have hfields := trimmedMap_fields (layoutOf b) h (s.map h)
    rw [← hmap h] at hfields
    exact hfields
  · exact (hchanges.trans (withReader_onlyChanges t _)).mono (by decide)

end Sys2Proof.Machine

/-! PROOFS. Pages that bind, and what the crossings that follow leave of them: the bindings of a product edge and of
an admission (chapters 1 and 3). -/

namespace Sys2Proof.Machine

/-! ## What crossings leave -/

/-- From `s` to `t` lines have crossed and ship requests have been made or withdrawn: every band keeps its plan and
owes no more, of a head only what is queued, in flight or to be sent again has changed, the requests of its
configuration and its park are still queued, and nothing posted is lost. -/
structure Crosses (s t : State) : Prop where
  bands : ∀ x ∈ t.win.bands, ∃ b ∈ s.win.bands, x.plan = b.plan ∧ x.outstanding ≤ b.outstanding
  heads : ∀ h, ∃ q f a, t.head h = { s.head h with queue := q, frame := f, again := a }
  requests : ∀ h, ∀ r ∈ (s.head h).queue, (r.kind = .query ∨ r.kind = .config) → r ∈ (t.head h).queue
  outbox : ∃ tail, t.port.outbox = s.port.outbox ++ tail

theorem Crosses.refl (s : State) : Crosses s s :=
  ⟨fun x hx => ⟨x, hx, rfl, Nat.le_refl _⟩, fun _ => ⟨_, _, _, rfl⟩, fun _ _ h _ => h, [], (List.append_nil _).symm⟩

theorem Crosses.trans {s t u : State} (h : Crosses s t) (k : Crosses t u) : Crosses s u where
  bands x hx := by
    obtain ⟨y, hy, hplan, hle⟩ := k.bands x hx
    obtain ⟨z, hz, hplan', hle'⟩ := h.bands y hy
    exact ⟨z, hz, hplan.trans hplan', hle.trans hle'⟩
  heads g := by
    obtain ⟨q, f, a, e⟩ := h.heads g
    obtain ⟨q', f', a', e'⟩ := k.heads g
    exact ⟨q', f', a', by rw [e', e]⟩
  requests g r hr hk := k.requests g r (h.requests g r hr hk) hk
  outbox := by
    obtain ⟨a, ha⟩ := h.outbox
    obtain ⟨b, hb⟩ := k.outbox
    exact ⟨a ++ b, by rw [hb, ha, List.append_assoc]⟩

theorem Crosses.ite {s t u : State} {p : Prop} [Decidable p] (ht : p → Crosses s t) (hu : ¬p → Crosses s u) :
    Crosses s (if p then t else u) := by
  split
  next h => exact ht h
  next h => exact hu h

theorem Crosses.foldl {α : Type} (f : State → α → State) (hf : ∀ s a, Crosses s (f s a)) (l : List α) (s : State) :
    Crosses s (l.foldl f s) := by
  induction l generalizing s with
  | nil => exact .refl s
  | cons a l ih => exact (hf s a).trans (ih _)

/-- Work on channels, maps, reader and engine alone. -/
theorem Crosses.of_onlyChanges {ps : List Part} {s t : State} (h : OnlyChanges ps s t) (hwin : .win ∉ ps)
    (hheads : .heads ∉ ps) (hport : ∃ tail, t.port.outbox = s.port.outbox ++ tail) : Crosses s t where
  bands x hx := ⟨x, (show t.win = s.win from h .win hwin) ▸ hx, rfl, Nat.le_refl _⟩
  heads g := ⟨_, _, _, h.head_eq hheads g⟩
  requests g r hr _ := by rw [h.head_eq hheads g]; exact hr
  outbox := hport

/-- One head written. -/
theorem Crosses.setHead (s : State) (h : HeadId) (q : List LinkRequest) (f a : Option Frame)
    (hq : ∀ r ∈ (s.head h).queue, (r.kind = .query ∨ r.kind = .config) → r ∈ q) :
    Crosses s (s.setHead h { s.head h with queue := q, frame := f, again := a }) where
  bands x hx := ⟨x, hx, rfl, Nat.le_refl _⟩
  heads g := by
    by_cases hg : g = h
    · subst hg
      exact ⟨_, _, _, State.setHead_head_self _ _ _⟩
    · exact ⟨_, _, _, State.setHead_head_ne _ _ _ _ hg⟩
  requests g r hr hk := by
    by_cases hg : g = h
    · subst hg
      rw [State.setHead_head_self]
      exact hq r hr hk
    · rw [State.setHead_head_ne _ _ _ _ hg]
      exact hr
  outbox := ⟨[], (List.append_nil _).symm⟩

theorem setChan_crosses (s : State) (c : ChanId) (x : Channel) : Crosses s (s.setChan c x) :=
  .of_onlyChanges (setChan_onlyChanges s c x) (by decide) (by decide) ⟨[], (List.append_nil _).symm⟩

theorem reportTo_outstanding (o : PassOutcome) (b : BandEntry) : (reportTo o b).outstanding = b.outstanding - 1 := by
  cases o <;> rfl

theorem linePass_crosses (c : ChanId) (o : PassOutcome) (s : State) : Crosses s (linePass c o s) where
  bands x hx := by
    cases hn : (s.chan c).next with
    | none =>
      have hsame : linePass c o s = s := by unfold linePass; rw [hn]
      exact ⟨x, hsame ▸ hx, rfl, Nat.le_refl _⟩
    | some r =>
      rw [linePass_win hn] at hx
      obtain ⟨b, hb, rfl⟩ := List.mem_map.1 hx
      refine ⟨b, hb, ?_⟩
      split
      · exact ⟨reportTo_plan o b, by rw [reportTo_outstanding]; exact Nat.sub_le _ _⟩
      · exact ⟨rfl, Nat.le_refl _⟩
  heads g := ⟨_, _, _, (linePass_onlyChanges c o s).head_eq (by decide) g⟩
  requests g r hr _ := by rw [(linePass_onlyChanges c o s).head_eq (by decide) g]; exact hr
  outbox := ⟨[], by rw [linePass_onlyChanges c o s .port (by decide), List.append_nil]⟩

theorem halt_crosses (cause : HaltCause) (s : State) : Crosses s (halt cause s) := by
  refine .of_onlyChanges (halt_onlyChanges cause s) (by decide) (by decide) ?_
  by_cases hw : working s = true
  · exact (halt_port_of_working hw cause).2
  · exact ⟨[], by rw [show halt cause s = s from if_neg hw, List.append_nil]⟩

theorem fire_crosses (c : ChanId) (l : ComposedLine) (s : State) : Crosses s (fire c l s) :=
  (setChan_crosses s c _).trans (linePass_crosses c _ _)

theorem starve_crosses (c : ChanId) (s : State) : Crosses s (starve c s) := by
  have hpass := linePass_crosses c .starved s
  unfold starve
  split
  · exact .ite (fun _ => hpass.trans (halt_crosses _ _)) fun _ => hpass
  · exact hpass

theorem crossWaiting_crosses (c : ChanId) (s : State) : Crosses s (crossWaiting c s) := by
  unfold crossWaiting
  split
  · exact .ite (fun _ => fire_crosses _ _ _) fun _ => setChan_crosses s c _
  · exact starve_crosses c s

theorem withdrawTransit_crosses (c : ChanId) (s : State) : Crosses s (withdrawTransit c s) := by
  unfold withdrawTransit
  split
  · exact .setHead s _ _ _ _ fun _ hr _ => hr
  · exact .refl s
  · exact .refl s

theorem shipKind_ne (c : ChanId) : shipKind c ≠ .query ∧ shipKind c ≠ .config := by
  unfold shipKind
  split <;> exact ⟨nofun, nofun⟩

theorem withdrawRequest_crosses (c : ChanId) (s : State) : Crosses s (withdrawRequest c s) := by
  unfold withdrawRequest
  refine .ite (fun _ => (setChan_crosses s c _).trans (.setHead _ _ _ _ _ fun r hr hk => ?_)) fun _ => .refl s
  refine List.mem_filter.2 ⟨hr, decide_eq_true fun e => ?_⟩
  rcases hk with hk | hk
  · exact (shipKind_ne c).1 (e.symm.trans hk)
  · exact (shipKind_ne c).2 (e.symm.trans hk)

theorem crossing_crosses (c : ChanId) (s : State) : Crosses s (crossing c s) := by
  unfold crossing
  split
  · exact .refl s
  · exact .refl s
  · exact linePass_crosses _ _ _
  · exact crossWaiting_crosses _ _
  · have hdrop : Crosses s (dropDeferred c s) :=
      ((withdrawTransit_crosses c s).trans (withdrawRequest_crosses c _)).trans (linePass_crosses c _ _)
    dsimp only
    split
    · exact hdrop.trans (crossWaiting_crosses _ _)
    · exact hdrop.trans (linePass_crosses _ _ _)
    · exact hdrop
    · exact hdrop
    · exact hdrop

theorem settleLoop_crosses (n : Nat) (c : ChanId) (s : State) : Crosses s (settleLoop n c s) := by
  induction n generalizing s with
  | zero => exact .refl s
  | succ n ih =>
    unfold settleLoop
    split
    · exact .ite (fun _ => (crossing_crosses c s).trans (ih _)) fun _ => .refl s
    · exact .refl s

theorem mem_enqueue {r x : LinkRequest} {q : List LinkRequest} : x ∈ enqueue r q ↔ x = r ∨ x ∈ q := by
  induction q with
  | nil => simp [enqueue]
  | cons y q ih =>
    unfold enqueue
    split
    · simp
    · rw [List.mem_cons, ih, List.mem_cons]
      tauto

theorem requestShip_crosses (c : ChanId) (s : State) : Crosses s (requestShip c s) := by
  unfold requestShip
  exact .ite (fun _ => (setChan_crosses s c _).trans (.setHead _ _ _ _ _ fun _ hr _ => mem_enqueue.2 (.inr hr)))
    fun _ => .refl s

theorem settleAll_crosses (s : State) : Crosses s (settleAll s) :=
  .foldl _ (fun s c => (settleLoop_crosses _ c s).trans (requestShip_crosses c _)) _ s

/-! ## The heads that return (R166) -/

/-- The controller of a head told of a binding: noted ready in its park it is RETURNING with the page's first band,
its configuration begun; otherwise it is as it was (R166). -/
def returnedLink (band : Nat) (k : RequestKind) (now : Nat) (d : HeadLink) : HeadLink :=
  if d.service = .parked ∧ d.ready = true then
    { d with service := .returning, returnBand := some band, ready := false, timer := none, config := some false,
             queue := enqueue { kind := k, joined := now } (removeKind .query d.queue) }
  else d

theorem returnHead_onlyChanges (band : Nat) (h : HeadId) (s : State) :
    OnlyChanges [.heads, .chans] s (returnHead band h s) := by
  unfold returnHead
  refine .ite (fun _ => ?_) fun _ => .refl _ s
  dsimp only
  rw [beginConfiguration_eq]
  exact ((setHead_onlyChanges _ _ _).trans_same (setHead_onlyChanges _ _ _)).trans
    (.foldl _ (fun s c => adjustCompose_onlyChanges c s) _ _)

theorem foldl_adjustCompose_head (l : List ChanId) (s : State) (g : HeadId) :
    (l.foldl (fun s c => adjustCompose c s) s).head g = s.head g :=
  (OnlyChanges.foldl _ (fun s c => adjustCompose_onlyChanges c s) l s).head_eq (by decide) g

theorem returnHead_head_ne (band : Nat) (s : State) (h g : HeadId) (hg : g ≠ h) :
    (returnHead band h s).head g = s.head g := by
  unfold returnHead
  dsimp only
  split
  · rw [foldl_adjustCompose_head, beginConfiguration_eq, State.setHead_head_ne _ _ _ _ hg,
      State.setHead_head_ne _ _ _ _ hg]
  · rfl

theorem returnHead_head_self (band : Nat) (s : State) (h : HeadId) :
    (returnHead band h s).head h = returnedLink band (configKind s h) s.tick (s.head h) := by
  unfold returnHead returnedLink
  dsimp only
  split
  next hready =>
    rw [foldl_adjustCompose_head, beginConfiguration_eq, State.setHead_head_self, State.setHead_head_self]
    have hkind : ∀ d : HeadLink, d.shadow = (s.head h).shadow → configKind (s.setHead h d) h = configKind s h :=
      fun d hd => by
        have hdue : dueParams (s.setHead h d) h = dueParams s h :=
          dueParams_congr rfl (by rw [State.setHead_head_self, hd])
        rw [configKind, hdue, ← configKind]
    rw [hkind _ (by rfl)]
    rfl
  next => rfl

theorem returnHeads_onlyChanges (band : Nat) (s : State) : OnlyChanges [.heads, .chans] s (returnHeads band s) :=
  .foldl _ (fun s h => returnHead_onlyChanges band h s) _ s

/-- Every head is told of the binding. -/
theorem returnHeads_head (band : Nat) (s : State) (h : HeadId) :
    (returnHeads band s).head h = returnedLink band (configKind s h) s.tick (s.head h) := by
  obtain ⟨u, hu, hsame, hend⟩ := foldl_allHeads_head (f := fun s h => returnHead band h s)
    (fun s h => returnHead_onlyChanges band h s) (fun s h g hg => returnHead_head_ne band s h g hg) s h
  have hkind : configKind u h = configKind s h := by
    rw [configKind, dueParams_congr (hu .layout (by decide)) (by rw [hsame]), ← configKind]
  rw [show (returnHeads band s).head h = (returnHead band h u).head h from hend, returnHead_head_self, hsame, hkind,
    show u.tick = s.tick from hu .tick (by decide)]

/-- No head is noted ready in its park. -/
def NoneReady (s : State) : Prop := ∀ h, ¬((s.head h).service = .parked ∧ (s.head h).ready = true)

theorem returnedLink_of_not_ready {d : HeadLink} (h : ¬(d.service = .parked ∧ d.ready = true)) (band : Nat)
    (k : RequestKind) (now : Nat) : returnedLink band k now d = d := if_neg h

theorem returnedLink_not_ready (band : Nat) (k : RequestKind) (now : Nat) (d : HeadLink) :
    ¬((returnedLink band k now d).service = .parked ∧ (returnedLink band k now d).ready = true) := by
  unfold returnedLink
  split
  next => exact fun h => nomatch h.1
  next h => exact h

/-- The heads returned by a binding stay returned through the crossings that follow. -/
theorem headsReturned_of_crosses {s u t : State} {band : Nat}
    (hheads : ∀ h, u.head h = returnedLink band (configKind s h) s.tick (s.head h)) (h : Crosses u t) :
    HeadsReturned s t band := by
  intro g
  obtain ⟨q, f, a, hg⟩ := h.heads g
  have hu := hheads g
  unfold returnedLink at hu
  split
  next hready =>
    rw [if_pos hready] at hu
    have hrequest : ({ kind := configKind s g, joined := s.tick } : LinkRequest) ∈ (u.head g).queue := by
      rw [hu]
      exact mem_enqueue.2 (.inl rfl)
    have hkind : configKind s g = .query ∨ configKind s g = .config := by
      unfold configKind
      split
      · exact .inl rfl
      · exact .inr rfl
    have hkept := h.requests g _ hrequest hkind
    rw [hg] at hkept ⊢
    rw [hu] at hkept ⊢
    exact ⟨rfl, rfl, rfl, rfl, rfl, rfl, hkept⟩
  next hready =>
    rw [if_neg hready] at hu
    rw [hg, hu]
    exact ⟨rfl, rfl, rfl, rfl, rfl⟩

/-! ## One page's binding (R51 to R55) -/

/-- The marks of a binding on the page's first band. -/
def markedBand (p : Page) (r : BindResult) (b : BandEntry) : BandEntry :=
  if b.id = p.firstBand then { b with overlap := b.overlap || r.overlap, slipped := b.slipped || r.slipped } else b

/-- A band of a page that has bound LATE. -/
def lateBand (x : PageBinding) (page : Nat) (b : BandEntry) : BandEntry :=
  match x with
  | .late _ => if b.page = page then { b with late := true, outstanding := 0 } else b
  | .bound _ | .unbound | .following => b

/-- A band after the binding of page `p`. -/
def boundBand (p : Page) (r : BindResult) (b : BandEntry) : BandEntry := lateBand r.binding p.id (markedBand p r b)

/-- A page record after the binding of page `id`. -/
def boundPage (id : Nat) (x : PageBinding) (q : Page) : Page := if q.id = id then { q with binding := x } else q

theorem withdrawLate_win (page : Nat) (s : State) : (withdrawLate page s).win = { s.win with
    bands := s.win.bands.map fun b => if b.page = page then { b with late := true, outstanding := 0 } else b } := rfl

theorem bindPage_win (p : Page) (a : Nat) (s : State) : (bindPage p a s).win = { s.win with
    bands := s.win.bands.map (boundBand p (bindResult s p a))
    pages := s.win.pages.map (boundPage p.id (bindResult s p a).binding) } := by
  unfold bindPage
  dsimp only
  rw [show ∀ u, (returnHeads p.firstBand u).win = u.win from fun u => returnHeads_onlyChanges _ u .win (by decide)]
  generalize bindResult s p a = r
  cases hr : r.binding with
  | late x =>
    dsimp only
    rw [withdrawLate_win]
    unfold boundBand lateBand
    rw [hr]
    simp only [mapBand, mapPage, State.withWin_win, List.map_map, Function.comp_def]
    rfl
  | bound x => unfold boundBand lateBand; rw [hr]; rfl
  | unbound => unfold boundBand lateBand; rw [hr]; rfl
  | following => unfold boundBand lateBand; rw [hr]; rfl

theorem Binds.onlyChanges {s t : State} (h : Binds s t) : OnlyChanges [.win, .chans, .heads] s t := by
  intro part hpart
  cases part with
  | pending => exact h.pending
  | tick => exact h.tick
  | posn => exact h.posn
  | reader => exact h.reader
  | layout => exact h.layout
  | maps => exact h.maps
  | port => exact h.port
  | ctl => exact h.ctl
  | win => exact absurd (by decide) hpart
  | chans => exact absurd (by decide) hpart
  | heads => exact absurd (by decide) hpart

theorem bindPage_onlyChanges (p : Page) (a : Nat) (s : State) :
    OnlyChanges [.win, .chans, .heads] s (bindPage p a s) := (bindPage_binds p a s).onlyChanges

theorem bindPage_head (p : Page) (a : Nat) (s : State) (h : HeadId) :
    (bindPage p a s).head h = returnedLink p.firstBand (configKind s h) s.tick (s.head h) := by
  have hreturn : ∀ u : State, u.heads = s.heads → u.layout = s.layout → u.tick = s.tick →
      (returnHeads p.firstBand u).head h = returnedLink p.firstBand (configKind s h) s.tick (s.head h) := by
    intro u hheads hlayout htick
    have hhead : u.head h = s.head h := by rw [State.head, hheads, State.head]
    have hdue : dueParams u h = dueParams s h := dueParams_congr hlayout (by rw [hhead])
    rw [returnHeads_head, configKind, hdue, ← configKind, hhead, htick]
  unfold bindPage
  dsimp only
  refine hreturn _ ?_ ?_ ?_ <;> cases (bindResult s p a).binding <;> rfl

/-! ## What bindings leave of the bands -/

/-- A band entry without the marks that a binding sets. -/
def BandEntry.unmarked (b : BandEntry) : BandEntry :=
  { b with overlap := false, slipped := false, late := false, outstanding := 0 }

/-- From `b` to `x` marks have at most been set, and a band withdrawn stays so. -/
structure Marked (b x : BandEntry) : Prop where
  unmarked : x.unmarked = b.unmarked
  overlap : b.overlap = true → x.overlap = true
  withdrawn : b.late = true → b.outstanding = 0 → x.late = true ∧ x.outstanding = 0

theorem Marked.refl (b : BandEntry) : Marked b b := ⟨rfl, id, fun h k => ⟨h, k⟩⟩

theorem Marked.trans {a b c : BandEntry} (h : Marked a b) (k : Marked b c) : Marked a c where
  unmarked := k.unmarked.trans h.unmarked
  overlap x := k.overlap (h.overlap x)
  withdrawn x y := k.withdrawn (h.withdrawn x y).1 (h.withdrawn x y).2

theorem markedBand_marked (p : Page) (r : BindResult) (b : BandEntry) : Marked b (markedBand p r b) := by
  unfold markedBand
  split
  · exact ⟨rfl, fun h => by simp [h], fun h k => ⟨h, k⟩⟩
  · exact .refl b

theorem lateBand_marked (x : PageBinding) (page : Nat) (b : BandEntry) : Marked b (lateBand x page b) := by
  unfold lateBand
  split
  · split
    · exact ⟨rfl, id, fun _ _ => ⟨rfl, rfl⟩⟩
    · exact .refl b
  all_goals exact .refl b

theorem boundBand_marked (p : Page) (r : BindResult) (b : BandEntry) : Marked b (boundBand p r b) :=
  (markedBand_marked p r b).trans (lateBand_marked _ _ _)

/-- The window's bands with marks at most set. -/
def MarksBands (s t : State) : Prop := ∃ f : BandEntry → BandEntry, t.win.bands = s.win.bands.map f ∧ ∀ b, Marked b (f b)

theorem MarksBands.refl (s : State) : MarksBands s s := ⟨id, (List.map_id _).symm, .refl⟩

theorem MarksBands.trans {s t u : State} (h : MarksBands s t) (k : MarksBands t u) : MarksBands s u := by
  obtain ⟨f, hf, hm⟩ := h
  obtain ⟨g, hg, hn⟩ := k
  exact ⟨g ∘ f, by rw [hg, hf, List.map_map], fun b => (hm b).trans (hn (f b))⟩

theorem bindPage_marksBands (p : Page) (a : Nat) (s : State) : MarksBands s (bindPage p a s) :=
  ⟨_, by rw [bindPage_win], boundBand_marked p _⟩

theorem Marked.same {b x : BandEntry} (h : Marked b x) : x.id = b.id ∧ x.page = b.page ∧ x.offset = b.offset :=
  ⟨show x.unmarked.id = b.unmarked.id by rw [h.unmarked], show x.unmarked.page = b.unmarked.page by rw [h.unmarked],
    show x.unmarked.offset = b.unmarked.offset by rw [h.unmarked]⟩

theorem MarksBands.mem {s t : State} (h : MarksBands s t) {x : BandEntry} (hx : x ∈ t.win.bands) :
    ∃ b ∈ s.win.bands, Marked b x := by
  obtain ⟨f, hf, hm⟩ := h
  rw [hf] at hx
  obtain ⟨b, hb, rfl⟩ := List.mem_map.1 hx
  exact ⟨b, hb, hm b⟩

theorem MarksBands.exists_page {s t : State} (h : MarksBands s t) {page : Nat} (hp : ∃ b ∈ s.win.bands, b.page = page) :
    ∃ b ∈ t.win.bands, b.page = page := by
  obtain ⟨f, hf, hm⟩ := h
  obtain ⟨b, hb, rfl⟩ := hp
  exact ⟨f b, hf ▸ List.mem_map_of_mem hb, (hm b).same.2.1⟩

theorem MarksBands.firstOffset {s t : State} (h : MarksBands s t) (p : Page) : firstOffset t p = firstOffset s p := by
  obtain ⟨f, hf, hm⟩ := h
  have hid : ((fun b : BandEntry => b.id == p.firstBand) ∘ f) = fun b => b.id == p.firstBand :=
    funext fun b => by rw [Function.comp, (hm b).same.1]
  unfold Machine.firstOffset findBand
  rw [hf, List.find?_map, hid]
  cases s.win.bands.find? fun b => b.id == p.firstBand with
  | none => rfl
  | some b => exact congrArg BitVec.toNat (hm b).same.2.2

/-! ## A binding and the FOLLOWING pages behind it -/

/-- The page records with a number. -/
def pagesOf (id : Nat) (s : State) : List Page := s.win.pages.filter fun p => decide (p.id = id)

theorem mem_pagesOf {id : Nat} {s : State} {p : Page} : p ∈ pagesOf id s ↔ p ∈ s.win.pages ∧ p.id = id := by
  simp [pagesOf]

theorem boundPage_id (id : Nat) (x : PageBinding) (q : Page) : (boundPage id x q).id = q.id := by
  unfold boundPage
  split <;> rfl

theorem bindPage_pagesOf_ne {p : Page} {id : Nat} (h : p.id ≠ id) (a : Nat) (s : State) :
    pagesOf id (bindPage p a s) = pagesOf id s := by
  unfold pagesOf
  rw [bindPage_win, List.filter_map]
  have hid : ((fun q : Page => decide (q.id = id)) ∘ boundPage p.id (bindResult s p a).binding) =
      fun q => decide (q.id = id) := funext fun q => by rw [Function.comp, boundPage_id]
  rw [hid]
  refine (List.map_congr_left fun q hq => ?_).trans (List.map_id _)
  have hqid : q.id = id := of_decide_eq_true (List.mem_filter.1 hq).2
  exact if_neg fun e => h (e.symm.trans hqid)

theorem bindPage_pagesOf_self (p : Page) (a : Nat) (s : State) : pagesOf p.id (bindPage p a s) =
    (pagesOf p.id s).map fun q => { q with binding := (bindResult s p a).binding } := by
  unfold pagesOf
  rw [bindPage_win, List.filter_map]
  have hid : ((fun q : Page => decide (q.id = p.id)) ∘ boundPage p.id (bindResult s p a).binding) =
      fun q => decide (q.id = p.id) := funext fun q => by rw [Function.comp, boundPage_id]
  rw [hid]
  exact List.map_congr_left fun q hq => if_pos (of_decide_eq_true (List.mem_filter.1 hq).2)

theorem anchorOf_toNat (a : Nat) : (anchorOf a).toNat = min a (2 ^ 48 - 1) := by
  rw [anchorOf, BitVec.toNat_ofNat]
  exact Nat.mod_eq_of_lt (Nat.lt_of_le_of_lt (Nat.min_le_right _ _) (by decide))

/-- A continuous page slips where its anchor is reached, and takes no clamp (R53). -/
theorem bindResult_of_continuous {p : Page} (h : p.continuous = true) (s : State) (a : Nat) :
    bindResult s p a = { binding := boundFrom s true (firstOffset s p) a, overlap := false,
                         slipped := reached s.posn.pos (min a (2 ^ 48 - 1) + oMin s.layout) } := by
  unfold bindResult
  dsimp only
  rw [if_pos h, anchorOf_toNat]
  have hbound : boundFrom s true (firstOffset s p) a =
      if reached s.posn.pos (min a (2 ^ 48 - 1) + oMin s.layout) then
        .bound (anchorOf ((captureOf s.posn.pos).toNat + firstOffset s p)) else .bound (anchorOf a) := by
    rw [← anchorOf_toNat]
    rfl
  rw [hbound]
  split
  next hr => rw [hr]
  next hr => rw [Bool.eq_false_of_not_eq_true hr]

/-- A triggered page takes the clamp, and is LATE where its anchor is reached (R52, R53). -/
theorem bindResult_of_triggered {p : Page} (h : p.continuous = false) (s : State) (a : Nat) :
    bindResult s p a =
      { binding := boundFrom s false (firstOffset s p) (max a ((predEnd s p).getD 0)),
        overlap := decide (a < (predEnd s p).getD 0), slipped := false } := by
  have hc : ¬p.continuous = true := by rw [h]; exact Bool.false_ne_true
  have hfrom : ∀ n, boundFrom s false (firstOffset s p) n =
      if reached s.posn.pos ((anchorOf n).toNat + oMin s.layout) then .late (anchorOf n) else .bound (anchorOf n) :=
    fun _ => rfl
  have hclamp : ∀ n overlap,
      (if reached s.posn.pos ((anchorOf n).toNat + oMin s.layout) then
        { binding := .late (anchorOf n), overlap := overlap, slipped := false }
      else ({ binding := .bound (anchorOf n), overlap := overlap, slipped := false } : BindResult)) =
        { binding := boundFrom s false (firstOffset s p) n, overlap := overlap, slipped := false } := by
    intro n overlap
    rw [hfrom]
    split <;> rfl
  unfold bindResult
  simp only [if_neg hc, hclamp]
  cases predEnd s p with
  | none => simp
  | some e =>
    simp only [Option.getD_some]
    split
    next hlt => simp [hlt, Nat.le_of_lt hlt]
    next hlt => simp [hlt, Nat.le_of_not_lt hlt]

theorem boundFrom_congr {s t : State} (hpos : t.posn.pos = s.posn.pos) (hlayout : t.layout = s.layout)
    (continuous : Bool) (offset a : Nat) : boundFrom t continuous offset a = boundFrom s continuous offset a := by
  unfold boundFrom
  rw [hpos, hlayout]

theorem boundFrom_ne_following (s : State) (continuous : Bool) (offset a : Nat) :
    boundFrom s continuous offset a ≠ .following := by
  unfold boundFrom
  dsimp only
  split
  · split <;> simp
  · simp

theorem bindResult_ne_following (s : State) (p : Page) (a : Nat) : (bindResult s p a).binding ≠ .following := by
  cases hc : p.continuous with
  | true =>
    rw [bindResult_of_continuous hc]
    exact boundFrom_ne_following _ _ _ _
  | false =>
    rw [bindResult_of_triggered hc]
    exact boundFrom_ne_following _ _ _ _

theorem nextFollowing_spec {p q : Page} {s : State} {b : Nat} (h : nextFollowing p s = some (q, b)) :
    q ∈ s.win.pages ∧ q.pred = some p.id ∧ q.binding = .following := by
  simp only [nextFollowing, Option.bind_eq_bind, Option.bind_eq_some_iff] at h
  obtain ⟨q', hq', e, -, heq⟩ := h
  cases heq
  have hcond := List.find?_some hq'
  rw [Bool.and_eq_true, decide_eq_true_eq, decide_eq_true_eq] at hcond
  exact ⟨List.mem_of_find?_eq_some hq', hcond⟩

/-- A run of bindings changes no page that does not follow. -/
theorem bindRun_pagesOf {id : Nat} (n : Nat) {p : Page} (a : Nat) {s : State} (hp : p.id ≠ id)
    (hfix : ∀ k ∈ pagesOf id s, k.binding ≠ .following) : pagesOf id (bindRun n p a s) = pagesOf id s := by
  induction n generalizing p a s with
  | zero => rfl
  | succ n ih =>
    have hkept := bindPage_pagesOf_ne hp a s
    unfold bindRun
    split
    next q b hq =>
      obtain ⟨hmem, -, hfollowing⟩ := nextFollowing_spec hq
      rw [← hkept] at hfix ⊢
      exact ih b (fun e => hfix q (mem_pagesOf.2 ⟨hmem, e⟩) hfollowing) hfix
    next => exact hkept

theorem bindRun_marksBands (n : Nat) (p : Page) (a : Nat) (s : State) : MarksBands s (bindRun n p a s) := by
  induction n generalizing p a s with
  | zero => exact .refl s
  | succ n ih =>
    have hfirst := bindPage_marksBands p a s
    unfold bindRun
    split
    next q b hq => exact hfirst.trans (ih q b _)
    next => exact hfirst

theorem bindRun_head_of_noneReady (n : Nat) (p : Page) (a : Nat) {s : State} (h : NoneReady s) (g : HeadId) :
    (bindRun n p a s).head g = s.head g := by
  induction n generalizing p a s with
  | zero => rfl
  | succ n ih =>
    have hsame : ∀ g, (bindPage p a s).head g = s.head g := fun g => by
      rw [bindPage_head, returnedLink_of_not_ready (h g)]
    unfold bindRun
    split
    next q b hq =>
      have hready : NoneReady (bindPage p a s) := fun k => by
        rw [hsame]
        exact h k
      exact (ih q b hready).trans (hsame g)
    next => exact hsame g

/-- A page's own binding, and what the pages behind it then do. -/
theorem bindFrom_eq (p : Page) (a : Nat) (s : State) : bindFrom p a s =
    match nextFollowing p (bindPage p a s) with
    | some (q, b) => bindRun s.win.pages.length q b (bindPage p a s)
    | none => bindPage p a s := by
  unfold bindFrom
  rw [bindRun] <;> rfl

theorem bindFrom_head (p : Page) (a : Nat) (s : State) (h : HeadId) :
    (bindFrom p a s).head h = returnedLink p.firstBand (configKind s h) s.tick (s.head h) := by
  have hready : NoneReady (bindPage p a s) := fun g => by
    rw [bindPage_head]
    exact returnedLink_not_ready _ _ _ _
  rw [bindFrom_eq]
  split
  · rw [bindRun_head_of_noneReady _ _ _ hready, bindPage_head]
  · exact bindPage_head p a s h

/-- The first page of a run is bound by its own binding alone. -/
theorem bindRun_succ_pagesOf (n : Nat) (p : Page) (a : Nat) (s : State) :
    pagesOf p.id (bindRun (n + 1) p a s) = pagesOf p.id (bindPage p a s) := by
  have hfix : ∀ k ∈ pagesOf p.id (bindPage p a s), k.binding ≠ .following := by
    intro k hk
    rw [bindPage_pagesOf_self] at hk
    obtain ⟨q, -, rfl⟩ := List.mem_map.1 hk
    exact bindResult_ne_following s p a
  unfold bindRun
  split
  next q b hq =>
    obtain ⟨hmem, -, hfollowing⟩ := nextFollowing_spec hq
    exact bindRun_pagesOf _ b (fun e => hfix q (mem_pagesOf.2 ⟨hmem, e⟩) hfollowing) hfix
  next => rfl

theorem bindFrom_pagesOf (p : Page) (a : Nat) (s : State) :
    pagesOf p.id (bindFrom p a s) = pagesOf p.id (bindPage p a s) := bindRun_succ_pagesOf _ p a s

/-- The marks that a page's own binding sets stay through the bindings behind it. -/
theorem bindFrom_marksBands (p : Page) (a : Nat) (s : State) : MarksBands (bindPage p a s) (bindFrom p a s) := by
  rw [bindFrom_eq]
  split
  · exact bindRun_marksBands _ _ _ _
  · exact .refl _

theorem findPage_bindPage (p : Page) (a : Nat) (s : State) (id : Nat) :
    findPage (bindPage p a s) id = (findPage s id).map (boundPage p.id (bindResult s p a).binding) := by
  have hid : ((fun q : Page => q.id == id) ∘ boundPage p.id (bindResult s p a).binding) = fun q => q.id == id :=
    funext fun q => by rw [Function.comp, boundPage_id]
  unfold findPage
  rw [bindPage_win, List.find?_map, hid]

theorem mem_of_findPage {s : State} {id : Nat} {p : Page} (h : findPage s id = some p) : p ∈ s.win.pages :=
  List.mem_of_find?_eq_some h

/-- Pages numbered apart are told by their numbers. -/
theorem eq_of_page_id {s : State} (h : s.win.pages.Pairwise fun p q => p.id < q.id) {p q : Page}
    (hp : p ∈ s.win.pages) (hq : q ∈ s.win.pages) (hid : p.id = q.id) : p = q := by
  have hnodup : (s.win.pages.map Page.id).Nodup := List.pairwise_map.2 (h.imp Nat.ne_of_lt)
  exact List.inj_on_of_nodup_map hnodup hp hq hid

/-- The one FOLLOWING page behind a page that binds is found with the anchor its formula gives (R51). -/
theorem nextFollowing_bindPage {s : State} {p q : Page} {a e : Nat} (hn : s.win.pages.Pairwise fun p q => p.id < q.id)
    (hp : findPage s p.id = some p) (hq : q ∈ s.win.pages) (hne : q.id ≠ p.id) (hpred : q.pred = some p.id)
    (hfollowing : q.binding = .following)
    (hone : ∀ u ∈ s.win.pages, u.pred = some p.id → u.binding = .following → u.id = q.id)
    (he : pageEnd { p with binding := (bindResult s p a).binding } = some e) :
    nextFollowing p (bindPage p a s) = some (q, e + firstOffset s q) := by
  have hmap : boundPage p.id (bindResult s p a).binding q = q := if_neg hne
  have hmem : q ∈ (bindPage p a s).win.pages := by
    rw [bindPage_win]
    exact List.mem_map.2 ⟨q, hq, hmap⟩
  have hfind : ((bindPage p a s).win.pages.find? fun q =>
      decide (q.pred = some p.id) && decide (q.binding = .following)) = some q := by
    obtain ⟨u, hu⟩ := Option.isSome_iff_exists.1
      (List.find?_isSome.2 ⟨q, hmem, by rw [hpred, hfollowing]; simp⟩ :
        ((bindPage p a s).win.pages.find? fun q =>
          decide (q.pred = some p.id) && decide (q.binding = .following)).isSome = true)
    have hcond := List.find?_some hu
    rw [Bool.and_eq_true, decide_eq_true_eq, decide_eq_true_eq] at hcond
    obtain ⟨hupred, hufollowing⟩ := hcond
    have humem := List.mem_of_find?_eq_some hu
    rw [bindPage_win] at humem
    obtain ⟨v, hv, rfl⟩ := List.mem_map.1 humem
    have hvid : v.id ≠ p.id := by
      intro hid
      rw [boundPage, if_pos hid] at hufollowing
      exact bindResult_ne_following s p a hufollowing
    have hvsame : boundPage p.id (bindResult s p a).binding v = v := if_neg hvid
    rw [hvsame] at hu hupred hufollowing
    rw [hu, eq_of_page_id hn hv hq (hone v hv hupred hufollowing)]
  have hend : predEnd (bindPage p a s) q = some e := by
    rw [predEnd, hpred, Option.bind_some, findPage_bindPage, hp]
    rw [Option.map_some, Option.bind_some, boundPage, if_pos rfl]
    exact he
  unfold nextFollowing
  rw [hfind]
  simp only [Option.bind_eq_bind, Option.bind_some]
  rw [hend, (bindPage_marksBands p a s).firstOffset]
  rfl

/-- That page then binds from its anchor (R51). -/
theorem bindFrom_following {s : State} {p q : Page} {a b : Nat} (hmem : p ∈ s.win.pages)
    (h : nextFollowing p (bindPage p a s) = some (q, b)) :
    pagesOf q.id (bindFrom p a s) = (pagesOf q.id (bindPage p a s)).map fun k =>
      { k with binding := (bindResult (bindPage p a s) q b).binding } := by
  obtain ⟨n, hn⟩ := Nat.exists_eq_succ_of_ne_zero (List.length_pos_of_mem hmem).ne'
  rw [bindFrom_eq, h]
  dsimp only
  rw [hn, bindRun_succ_pagesOf, bindPage_pagesOf_self]

/-! ## A page's records after its binding -/

/-- The records of a page that binds, after the whole run (R51 to R53). -/
theorem mem_bindFrom_of_id {p k : Page} {a : Nat} {s : State} (hk : k ∈ (bindFrom p a s).win.pages) (hid : k.id = p.id) :
    ∃ q ∈ s.win.pages, q.id = p.id ∧ k = { q with binding := (bindResult s p a).binding } := by
  have hmem : k ∈ pagesOf p.id (bindFrom p a s) := mem_pagesOf.2 ⟨hk, hid⟩
  rw [bindFrom_pagesOf, bindPage_pagesOf_self] at hmem
  obtain ⟨q, hq, rfl⟩ := List.mem_map.1 hmem
  obtain ⟨hmem, hq⟩ := mem_pagesOf.1 hq
  exact ⟨q, hmem, hq, rfl⟩

theorem mem_bindFrom_self {p : Page} {s : State} (hp : p ∈ s.win.pages) (a : Nat) :
    { p with binding := (bindResult s p a).binding } ∈ (bindFrom p a s).win.pages := by
  have hmem : { p with binding := (bindResult s p a).binding } ∈ pagesOf p.id (bindFrom p a s) := by
    rw [bindFrom_pagesOf, bindPage_pagesOf_self]
    exact List.mem_map.2 ⟨p, mem_pagesOf.2 ⟨hp, rfl⟩, rfl⟩
  exact (mem_pagesOf.1 hmem).1

theorem pageKept_of_band {w : Window} {p : Page} (h : ∃ b ∈ w.bands, b.page = p.id) : pageKept w p = true := by
  have hany : (w.bands.any fun b => decide (b.page = p.id)) = true := by simpa using h
  rw [pageKept, hany]
  rfl

/-- The bands of a page that binds LATE owe nothing, and those of its first band's number keep the clamp's mark. -/
theorem bindPage_band {p : Page} {a : Nat} {s : State} {x : BandEntry} (hx : x ∈ (bindPage p a s).win.bands) :
    (x.page = p.id → (∃ n, (bindResult s p a).binding = .late n) → x.late = true ∧ x.outstanding = 0) ∧
    (x.id = p.firstBand → (bindResult s p a).overlap = true → x.overlap = true) := by
  rw [bindPage_win] at hx
  obtain ⟨b, -, rfl⟩ := List.mem_map.1 hx
  obtain ⟨hid, hpage, -⟩ := (boundBand_marked p (bindResult s p a) b).same
  refine ⟨fun hp hl => ?_, fun hf ho => ?_⟩
  · obtain ⟨n, hn⟩ := hl
    have hm : (markedBand p (bindResult s p a) b).page = p.id := by
      rw [(markedBand_marked p _ b).same.2.1, ← hpage, hp]
    have hlate : ∀ b : BandEntry, b.page = p.id → (lateBand (.late n) p.id b).late = true ∧
        (lateBand (.late n) p.id b).outstanding = 0 := fun b hb => by
      rw [show lateBand (.late n) p.id b = { b with late := true, outstanding := 0 } from if_pos hb]
      exact ⟨rfl, rfl⟩
    rw [boundBand, hn]
    exact hlate _ hm
  · refine (lateBand_marked _ _ _).overlap ?_
    rw [markedBand, if_pos (hid.symm.trans hf), ho]
    exact Bool.or_true _

/-! ## The binding of a product edge (R11) -/

/-- The state in which an accepted edge binds a page: the level, the lockout reference and the unbound list are set. -/
def edgeTaken (l : Layout) (ids : List Nat) (s : State) : State :=
  (s.withPosn { s.posn with productLevel := !l.falling, lockoutRef := some (captureOf s.posn.pos) }).withWin
    { s.win with unbound := ids }

theorem takeCapture_of_unbound {s : State} {id : Nat} {ids : List Nat} {p : Page} (q : BitVec 40)
    (hunbound : s.win.unbound = id :: ids) (hp : findPage s id = some p) :
    takeCapture q s = settleAll (removePages
      (bindFrom p (q.toNat + firstOffset s p) (s.withWin { s.win with unbound := ids }))) := by
  have hp' : findPage (s.withWin { s.win with unbound := ids }) id = some p := hp
  unfold takeCapture
  rw [hunbound]
  dsimp only
  rw [hp']
  rfl

theorem exec_productEdge_of_unbound {s : State} {l : Layout} {id : Nat} {ids : List Nat} {p : Page}
    (hl : s.layout = some l) (hlevel : s.posn.productLevel = l.falling)
    (hengine : s.ctl.engine = .running ∨ s.ctl.engine = .suspended ∨ s.ctl.engine = .draining)
    (hlock : ∀ r, s.posn.lockoutRef = some r → r.toNat + 256 * l.lockout ≤ (captureOf s.posn.pos).toNat)
    (hunbound : s.win.unbound = id :: ids) (hp : findPage s id = some p) :
    exec .productEdge s = .next (settleAll (removePages
      (bindFrom p ((captureOf s.posn.pos).toNat + firstOffset s p) (edgeTaken l ids s)))) := by
  have hexec : exec .productEdge s = .next (takeEdge (setLevel (!l.falling) s)) := execProductEdge_of_layout hl hlevel
  have htake : takeEdge (setLevel (!l.falling) s) = takeCapture (captureOf s.posn.pos)
      ((setLevel (!l.falling) s).withPosn
        { (setLevel (!l.falling) s).posn with lockoutRef := some (captureOf s.posn.pos) }) :=
    if_pos ((edgeAccepted_iff (s := setLevel (!l.falling) s) hl _).2 ⟨hengine, hlock⟩)
  rw [hexec, htake]
  exact congrArg Host.Outcome.next (takeCapture_of_unbound (captureOf s.posn.pos) hunbound hp)

/-- Settles O17, by the page's own binding and what the run behind it and the crossings leave of it. -/
theorem productEdgeBindsOldestPage : Obligations.ProductEdgeBindsOldestPage := by
  intro s l id ids p hl hlevel hengine hlock hunbound hp hcont a raised anchor
  have hid : p.id = id := findPage_id hp
  have hmem : p ∈ s.win.pages := mem_of_findPage hp
  have hexec : exec .productEdge s = .next (settleAll (removePages (bindFrom p a (edgeTaken l ids s)))) :=
    exec_productEdge_of_unbound hl hlevel hengine hlock hunbound hp
  have hraised : raised = max a ((predEnd s p).getD 0) := by
    simp only [raised]
    cases predEnd s p <;> simp
  have hresult := bindResult_of_triggered hcont (edgeTaken l ids s) a
  have hbinding : (bindResult (edgeTaken l ids s) p a).binding =
      if reached s.posn.pos (anchor.toNat + oMin s.layout) then .late anchor else .bound anchor := by
    rw [hresult, show predEnd (edgeTaken l ids s) p = predEnd s p from rfl, ← hraised]
    rfl
  have hoverlap : (bindResult (edgeTaken l ids s) p a).overlap = decide (a < raised) := by
    rw [hresult, show predEnd (edgeTaken l ids s) p = predEnd s p from rfl, hraised]
    simp
  have hfirst := bindPage_marksBands p a (edgeTaken l ids s)
  have hrest := bindFrom_marksBands p a (edgeTaken l ids s)
  have hbinds := bindFrom_binds p a (edgeTaken l ids s)
  have hkept := removePages_binds (bindFrom p a (edgeTaken l ids s))
  have hruns := settleAll_runs (removePages (bindFrom p a (edgeTaken l ids s)))
  have hcross := settleAll_crosses (removePages (bindFrom p a (edgeTaken l ids s)))
  have hpages : (settleAll (removePages (bindFrom p a (edgeTaken l ids s)))).win.pages =
      (bindFrom p a (edgeTaken l ids s)).win.pages.filter (pageKept (bindFrom p a (edgeTaken l ids s)).win) := by
    rw [hruns.win]
    rfl
  generalize settleAll (removePages (bindFrom p a (edgeTaken l ids s))) = t at hexec hruns hcross hpages
  have hstays : ∀ {k : Page}, k ∈ (bindFrom p a (edgeTaken l ids s)).win.pages →
      (∃ b ∈ s.win.bands, b.page = k.id) → k ∈ t.win.pages := fun hk hb => by
    rw [hpages]
    exact List.mem_filter.2 ⟨hk, pageKept_of_band ((hfirst.trans hrest).exists_page hb)⟩
  refine ⟨t, hexec, ?_, ?_, fun k hk hkid => ?_, fun hb => ?_, fun hlate x hx hpage => ?_, ?_, ?_, fun hlt x hx hxid => ?_,
    ?_, ?_, ?_, fun h => ?_⟩
  · rw [hruns.posn, hkept.posn, hbinds.posn]
    rfl
  · rw [hruns.win, hkept.win, hbinds.win]
    rfl
  · rw [hpages] at hk
    obtain ⟨q, -, -, rfl⟩ := mem_bindFrom_of_id (List.mem_of_mem_filter hk) (hkid.trans hid.symm)
    exact hbinding
  · exact ⟨_, hstays (mem_bindFrom_self (s := edgeTaken l ids s) hmem a) (hid ▸ hb), hid, rfl⟩
  · obtain ⟨y, hy, hplan, hle⟩ := hcross.bands x hx
    obtain ⟨z, hz, hmark⟩ := hrest.mem hy
    have hzpage : z.page = p.id := by
      rw [← hmark.same.2.1, hid, ← hpage]
      exact (congrArg BandEntry.page hplan).symm
    obtain ⟨hzlate, hzowes⟩ := (bindPage_band hz).1 hzpage ⟨anchor, hbinding.trans (if_pos hlate)⟩
    obtain ⟨hylate, hyowes⟩ := hmark.withdrawn hzlate hzowes
    exact ⟨(congrArg BandEntry.late hplan).trans hylate, Nat.le_zero.1 (hyowes ▸ hle)⟩
  · intro q hnumbering hq hne hpred hfollowing hqcont hone hb
    have hqmem : q ∈ s.win.pages := mem_of_findPage hq
    have hend : pageEnd { p with binding := (bindResult (edgeTaken l ids s) p a).binding } =
        some (anchor.toNat + 256 * p.count) := by
      have heither : ∀ late : Bool, pageEnd { p with binding := if late then .late anchor else .bound anchor } =
          some (anchor.toNat + 256 * p.count) := by
        intro late
        cases late <;> rfl
      rw [hbinding]
      exact heither _
    have hnext := nextFollowing_bindPage (s := edgeTaken l ids s) hnumbering.pages (hid ▸ hp) hqmem
      (fun e => hne (e.trans hid)) (hid ▸ hpred) hfollowing (hid ▸ hone) hend
    have hqbound : q ∈ pagesOf q.id (bindPage p a (edgeTaken l ids s)) := by
      rw [bindPage_pagesOf_ne fun e => hne (e.symm.trans hid)]
      exact mem_pagesOf.2 ⟨hqmem, rfl⟩
    have hqfrom := List.mem_map_of_mem (f := fun k => { k with
      binding := (bindResult (bindPage p a (edgeTaken l ids s)) q
        (anchor.toNat + 256 * p.count + firstOffset (edgeTaken l ids s) q)).binding }) hqbound
    rw [← bindFrom_following (s := edgeTaken l ids s) hmem hnext] at hqfrom
    refine ⟨_, hstays (mem_pagesOf.1 hqfrom).1 hb, rfl, ?_⟩
    rw [bindResult_of_continuous hqcont, hfirst.firstOffset]
    have hown := bindPage_binds p a (edgeTaken l ids s)
    exact boundFrom_congr (s := edgeTaken l ids s) (congrArg PositionUnit.pos hown.posn) hown.layout _ _ _
  · exact headsReturned_of_crosses (u := removePages (bindFrom p a (edgeTaken l ids s)))
      (fun h => bindFrom_head p a (edgeTaken l ids s) h) hcross
  · obtain ⟨y, hy, hplan, -⟩ := hcross.bands x hx
    obtain ⟨z, hz, hmark⟩ := hrest.mem hy
    have hzid : z.id = p.firstBand := by
      rw [← hmark.same.1, ← hxid]
      exact (congrArg BandEntry.id hplan).symm
    have hz := (bindPage_band hz).2 hzid (hoverlap.trans (decide_eq_true hlt))
    exact (congrArg BandEntry.overlap hplan).trans (hmark.overlap hz)
  · have hids := congrArg (List.map BandEntry.id) hruns.plans
    rw [List.map_map, List.map_map] at hids
    exact (hids.trans hkept.bands).trans hbinds.bands
  · rw [hruns.layout, hkept.layout, hbinds.layout]
    rfl
  · rw [hruns.tick, hkept.tick, hbinds.tick]
    rfl
  · rw [hruns.sets, State.map, hkept.maps, hbinds.maps]
    rfl

end Sys2Proof.Machine

/-! PROOFS. BAND_ADMIT: the page a band opens or joins, its binding, and what following NEXT and the crossings leave of
them (chapters 2 and 3). -/

namespace Sys2Proof.Machine

/-! ## Following NEXT and the crossings behind an admission -/

theorem startTransfer_outbox (fetch : Option (ChanId × LineRef)) (a : Addr) (len : Nat) (s : State) :
    (startTransfer fetch a len s).port.outbox = s.port.outbox := by
  obtain ⟨_, _, _, e⟩ := startTransfer_spec fetch a len s
  rw [e]
  rfl

/-- A reading engine follows NEXT: the address moves to one that is not 0, and nothing posted is lost (R27). -/
theorem followNext_address {s : State} (h : s.ctl.engine = .running ∨ s.ctl.engine = .suspended) (next : Addr) :
    (followNext next s).reader.addr = (if next = 0 then s.reader.addr else next) ∧
    ∃ tail, (followNext next s).port.outbox = s.port.outbox ++ tail := by
  rw [followNext_of_reading h]
  by_cases hn : next = 0
  · rw [if_neg (by simpa using hn), if_pos hn]
    split
    · refine ⟨by rw [(readNext_spec _).2.2]; rfl, [], ?_⟩
      rw [readNext, startTransfer_outbox, List.append_nil]
      rfl
    · rw [suspendReader_of_reading (s := setWork .idle s) h]
      exact ⟨by rw [raise_reader]; rfl, (raise_keeps_port .readerSuspended _).outbox⟩
  · rw [if_pos hn, if_neg hn]
    refine ⟨by rw [(readHeader_spec _).2.2]; rfl, [], ?_⟩
    rw [readHeader, startTransfer_outbox, List.append_nil]
    rfl

/-- What following NEXT and the crossings leave of an admission. -/
structure Settled (next : Addr) (s t : State) : Prop where
  crosses : Crosses s t
  posn : t.posn = s.posn
  tick : t.tick = s.tick
  sets : ∀ h, (t.map h).sets = (s.map h).sets
  win : t.win = { s.win with bands := t.win.bands }
  plans : t.win.bands.map BandEntry.plan = s.win.bands.map BandEntry.plan
  addr : t.reader.addr = if next = 0 then s.reader.addr else next

theorem settleAll_followNext {s : State} (h : s.ctl.engine = .running) (next : Addr) :
    Settled next s (settleAll (followNext next s)) := by
  obtain ⟨haddr, houtbox⟩ := followNext_address (.inl h) next
  have hreads := (followNext_spec next s).1
  have hruns := settleAll_runs (followNext next s)
  have hfollow : Crosses s (followNext next s) :=
    { bands := fun x hx => ⟨x, hreads.win ▸ hx, rfl, Nat.le_refl _⟩
      heads := fun g => ⟨_, _, _, by rw [State.head, hreads.heads, State.head]⟩
      requests := fun g r hr _ => by rw [State.head, hreads.heads]; exact hr
      outbox := houtbox }
  refine ⟨hfollow.trans (settleAll_crosses _), by rw [hruns.posn, hreads.posn], by rw [hruns.tick, hreads.tick],
    fun g => ?_, by rw [hruns.win, hreads.win], by rw [hruns.plans, hreads.win], ?_⟩
  · rw [hruns.sets, State.map, hreads.maps, State.map]
  · rw [hruns.reader]
    exact haddr

/-! ## The binding of a page that has just opened -/

/-- A page that no page follows binds alone. -/
theorem bindFrom_of_last {p : Page} {s : State} (h : ∀ q ∈ s.win.pages, q.pred ≠ some p.id) (a : Nat) :
    bindFrom p a s = bindPage p a s := by
  rw [bindFrom_eq]
  split
  next q b hq =>
    obtain ⟨hmem, hpred, -⟩ := nextFollowing_spec hq
    rw [bindPage_win] at hmem
    obtain ⟨u, hu, rfl⟩ := List.mem_map.1 hmem
    refine absurd ?_ (h u hu)
    rw [← hpred]
    unfold boundPage
    split <;> rfl
  next => rfl

/-- The page that a PAGE_START band opens, with the band's lines counted, ended for PAGE_END (R45, R46). -/
def newPage (b : BandRecord) (s : State) (x : PageBinding) : Page :=
  { openedPage b s with count := b.lines.toNat, ended := b.pageEnd, binding := x }

/-- The window after the admission of a PAGE_START band: the bands `bs` and behind them the band `e`, and the page
opened last with binding `x`. -/
def openedWin (b : BandRecord) (s : State) (bs : List BandEntry) (e : BandEntry) (x : PageBinding)
    (unbound : List Nat) : Window :=
  { bands := bs ++ [e]
    pages := s.win.pages.map (endedBehind s.win) ++ [newPage b s x]
    openPage := if b.pageEnd then none else some s.win.nextPage
    prevPage := if b.pageEnd then some s.win.nextPage else match s.win.openPage with
      | some id => some id
      | none => s.win.prevPage
    firstPage := false
    unbound := unbound
    nextBand := s.win.nextBand + 1
    nextPage := s.win.nextPage + 1 }

/-- The entry of a PAGE_START band. -/
def firstEntry (b : BandRecord) (s : State) : BandEntry := newEntry s b s.win.nextPage 0

/-- The open page joined, and ended for PAGE_END. -/
def joinedState (b : BandRecord) (p : Page) (s : State) : State :=
  if b.pageEnd then endPage p.id (joinPage b p s) else joinPage b p s

theorem joinedState_onlyChanges (b : BandRecord) (p : Page) (s : State) :
    OnlyChanges [.win, .chans] s (joinedState b p s) := by
  have hjoin : OnlyChanges [.win, .chans] s (joinPage b p s) := by
    rw [joinPage_eq]
    intro part hpart
    cases part <;> first | rfl | exact absurd (by decide) hpart
  unfold joinedState
  exact .ite (fun _ => hjoin.trans_same ((withWin_onlyChanges _ _).mono (by decide))) fun _ => hjoin

/-- The page after its band's lines are counted, ended for PAGE_END. -/
def joinedPage (b : BandRecord) (p q : Page) : Page :=
  if q.id = p.id then
    { q with count := min (q.count + b.lines.toNat) (2 ^ 48 - 1), ended := q.ended || b.pageEnd }
  else q

theorem joinedState_win (b : BandRecord) (p : Page) (s : State) : (joinedState b p s).win = { s.win with
    bands := s.win.bands ++ [joinedEntry b p s]
    pages := s.win.pages.map (joinedPage b p)
    nextBand := s.win.nextBand + 1
    openPage := if b.pageEnd then none else s.win.openPage
    prevPage := if b.pageEnd then some p.id else s.win.prevPage } := by
  have hjoin : (joinPage b p s).win = { s.win with
      bands := s.win.bands ++ [joinedEntry b p s]
      pages := s.win.pages.map (countedPage b p.id)
      nextBand := s.win.nextBand + 1 } := by
    rw [joinPage_eq]
    rfl
  unfold joinedState
  cases hend : b.pageEnd with
  | false =>
    have hpage : joinedPage b p = countedPage b p.id := funext fun q => by
      unfold joinedPage countedPage
      simp only [hend, Bool.or_false]
      rfl
    rw [if_neg Bool.false_ne_true, hjoin, hpage]
    rfl
  | true =>
    have hpage : joinedPage b p =
        (fun q : Page => if q.id = p.id then { q with ended := true } else q) ∘ countedPage b p.id := funext fun q => by
      unfold joinedPage countedPage
      rw [Function.comp]
      by_cases hq : q.id = p.id
      · simp only [if_pos hq, hend, Bool.or_true]
        rfl
      · simp only [if_neg hq]
    rw [if_pos rfl, endPage_eq, hjoin, hpage, ← List.map_map]
    rfl

/-! ## The page a PAGE_START band opens (R45 to R51) -/

theorem findPage_append_of_lt {s : State} {l : List Page} {k : Page} (hw : s.win.pages = l ++ [k])
    (hlt : ∀ p ∈ l, p.id < k.id) : findPage s k.id = some k := by
  unfold findPage
  rw [hw, List.find?_append, List.find?_eq_none.2 fun p hp => by simpa using Nat.ne_of_lt (hlt p hp)]
  simp

theorem endedBehind_id (w : Window) (p : Page) : (endedBehind w p).id = p.id := rfl

theorem placeBand_of_pageStart {b : BandRecord} {s : State} (hstart : b.pageStart = true) (hn : NumberingLaw s) :
    ∃ u, placeBand b s = removePages (bindOpened (openedPage b s) b.offset.toNat u) ∧ OnlyChanges [.win, .chans] s u ∧
      u.win = openedWin b s s.win.bands (firstEntry b s) (openedPage b s).binding s.win.unbound := by
  have hopen : pageFor b s = openPage b s := if_pos hstart
  have hpages : (openPage b s).win.pages = s.win.pages.map (endedBehind s.win) ++ [openedPage b s] := by
    rw [openPage_eq]
    rfl
  have hlt : ∀ p ∈ s.win.pages.map (endedBehind s.win), p.id < (openedPage b s).id := by
    intro p hp
    obtain ⟨q, hq, rfl⟩ := List.mem_map.1 hp
    exact hn.nextPage q hq
  have hfind : (openPage b s).win.openPage.bind (findPage (openPage b s)) = some (openedPage b s) := by
    rw [show (openPage b s).win.openPage = some (openedPage b s).id by rw [openPage_eq]; rfl, Option.bind_some]
    exact findPage_append_of_lt hpages hlt
  have hentry : joinedEntry b (openedPage b s) (openPage b s) = firstEntry b s := by
    rw [openPage_eq]
    unfold joinedEntry openedPage
    cases b.continuous <;> rfl
  have hjoined : (s.win.pages.map (endedBehind s.win) ++ [openedPage b s]).map (joinedPage b (openedPage b s)) =
      s.win.pages.map (endedBehind s.win) ++ [newPage b s (openedPage b s).binding] := by
    have hold : (s.win.pages.map (endedBehind s.win)).map (joinedPage b (openedPage b s)) =
        s.win.pages.map (endedBehind s.win) :=
      (List.map_congr_left fun p hp => if_neg (Nat.ne_of_lt (hlt p hp))).trans (List.map_id _)
    have hlines := b.lines.isLt
    have hcount : min (0 + b.lines.toNat) (2 ^ 48 - 1) = b.lines.toNat := by omega
    have hnew : joinedPage b (openedPage b s) (openedPage b s) = newPage b s (openedPage b s).binding := by
      rw [joinedPage, if_pos rfl]
      show Page.mk _ _ _ (min (0 + b.lines.toNat) (2 ^ 48 - 1)) (false || b.pageEnd) _ _ = _
      rw [hcount, Bool.false_or]
      rfl
    rw [List.map_append, hold, List.map_singleton, hnew]
  refine ⟨joinedState b (openedPage b s) (openPage b s), ?_, ?_, ?_⟩
  · rw [placeBand_eq, hopen, hfind, joinedState]
    dsimp only
    rw [if_pos hstart]
  · rw [openPage_eq]
    exact ((withWin_onlyChanges s _).mono (by decide)).trans_same (joinedState_onlyChanges _ _ _)
  · rw [joinedState_win, hentry, hpages, hjoined, openPage_eq]
    rfl

/-- The page an opened page is behind, with an anchor, gives its formula the end of that page (R51, R52). -/
theorem predEnd_openedPage {b : BandRecord} {s u : State} {bs : List BandEntry} {e : BandEntry} {x : PageBinding}
    {unbound : List Nat} (ho : PageOrderLaw s) (hw : u.win = openedWin b s bs e x unbound) :
    predEnd u (openedPage b s) = ((openedPage b s).pred.bind (findPage s)).bind pageEnd := by
  unfold predEnd
  cases hpred : (openedPage b s).pred with
  | none => rfl
  | some id =>
    have hlt : id < s.win.nextPage := openedPage_pred_lt ho b hpred
    have hnew : ((newPage b s x).id == id) = false := by
      simpa using (show (newPage b s x).id ≠ id from (Nat.ne_of_lt hlt).symm)
    have hfind : findPage u id = (findPage s id).map (endedBehind s.win) := by
      unfold findPage
      rw [hw, openedWin, List.find?_append, List.find?_map, List.find?_singleton, hnew]
      exact Option.or_none
    rw [Option.bind_some, Option.bind_some, hfind]
    cases findPage s id <;> rfl

theorem pageEnd_eq_some_iff (p : Page) (n : Nat) :
    pageEnd p = some n ↔ ∃ a, (p.binding = .bound a ∨ p.binding = .late a) ∧ n = a.toNat + 256 * p.count := by
  unfold pageEnd
  cases p.binding <;> simp [eq_comm]

theorem boundBand_firstEntry (b : BandRecord) (s : State) (r : BindResult) :
    (boundBand (openedPage b s) r (firstEntry b s)).overlap = r.overlap ∧
    (boundBand (openedPage b s) r (firstEntry b s)).slipped = r.slipped ∧
    ((boundBand (openedPage b s) r (firstEntry b s)).late = true ↔ ∃ y, r.binding = .late y) := by
  have hmark : markedBand (openedPage b s) r (firstEntry b s) =
      { firstEntry b s with overlap := r.overlap, slipped := r.slipped } := by
    rw [markedBand, if_pos (show (firstEntry b s).id = (openedPage b s).firstBand from rfl)]
    rfl
  rw [boundBand, hmark]
  cases hx : r.binding with
  | late y =>
    rw [show lateBand (.late y) (openedPage b s).id { firstEntry b s with overlap := r.overlap, slipped := r.slipped } =
      { firstEntry b s with overlap := r.overlap, slipped := r.slipped, late := true, outstanding := 0 }
      from if_pos rfl]
    exact ⟨rfl, rfl, fun _ => ⟨y, rfl⟩, fun _ => rfl⟩
  | bound y => exact ⟨rfl, rfl, nofun, fun h => nomatch h.choose_spec⟩
  | unbound => exact ⟨rfl, rfl, nofun, fun h => nomatch h.choose_spec⟩
  | following => exact ⟨rfl, rfl, nofun, fun h => nomatch h.choose_spec⟩

/-- A page opened last binds: its own record and its band are marked, and no other page changes. -/
theorem bindPage_openedPage {b : BandRecord} {s u : State} {x : PageBinding} {unbound : List Nat} (a : Nat)
    (hn : NumberingLaw s) (ho : PageOrderLaw s)
    (hw : u.win = openedWin b s s.win.bands (firstEntry b s) x unbound) :
    bindFrom (openedPage b s) a u = bindPage (openedPage b s) a u ∧
    firstOffset u (openedPage b s) = b.offset.toNat ∧
    ∃ bs e, (bindPage (openedPage b s) a u).win =
        openedWin b s bs e (bindResult u (openedPage b s) a).binding unbound ∧
      bs.map BandEntry.id = s.win.bands.map BandEntry.id ∧ e.unmarked = (firstEntry b s).unmarked ∧
      e.overlap = (bindResult u (openedPage b s) a).overlap ∧ e.slipped = (bindResult u (openedPage b s) a).slipped ∧
      (e.late = true ↔ ∃ y, (bindResult u (openedPage b s) a).binding = .late y) := by
  have hlt : ∀ p ∈ s.win.pages.map (endedBehind s.win), p.id < (openedPage b s).id := by
    intro p hp
    obtain ⟨q, hq, rfl⟩ := List.mem_map.1 hp
    exact hn.nextPage q hq
  refine ⟨bindFrom_of_last (fun q hq => ?_) a, ?_, ?_⟩
  · rw [hw] at hq
    intro hpred
    rcases List.mem_append.1 hq with hq | hq
    · obtain ⟨p, hp, rfl⟩ := List.mem_map.1 hq
      have hback : (openedPage b s).id < p.id := ho.pred p hp _ hpred
      exact Nat.lt_asymm hback (hn.nextPage p hp)
    · rw [List.mem_singleton.1 hq] at hpred
      exact Nat.lt_irrefl _ (openedPage_pred_lt ho b hpred)
  · have hnot : (s.win.bands.find? fun x => x.id == s.win.nextBand) = none :=
      List.find?_eq_none.2 fun x hx => by simpa using Nat.ne_of_lt (hn.nextBand x hx)
    have hfind : findBand u (openedPage b s).firstBand = some (firstEntry b s) := by
      rw [findBand, hw]
      show ((s.win.bands ++ [firstEntry b s]).find? fun x => x.id == s.win.nextBand) = _
      rw [List.find?_append, hnot]
      simp [firstEntry, newEntry]
    rw [firstOffset, hfind]
    rfl
  · generalize hr : bindResult u (openedPage b s) a = r
    refine ⟨s.win.bands.map (boundBand (openedPage b s) r), boundBand (openedPage b s) r (firstEntry b s), ?_, ?_,
      (boundBand_marked _ _ _).unmarked, ?_, ?_, ?_⟩
    · have hpages : (openedWin b s s.win.bands (firstEntry b s) x unbound).pages.map
          (boundPage (openedPage b s).id r.binding) =
          s.win.pages.map (endedBehind s.win) ++ [newPage b s r.binding] := by
        have hold : (s.win.pages.map (endedBehind s.win)).map (boundPage (openedPage b s).id r.binding) =
            s.win.pages.map (endedBehind s.win) :=
          (List.map_congr_left fun p hp => if_neg (Nat.ne_of_lt (hlt p hp))).trans (List.map_id _)
        rw [openedWin, List.map_append, hold, List.map_singleton]
        exact congrArg (fun k => _ ++ [k]) (if_pos rfl)
      rw [bindPage_win, hr, hw, hpages]
      unfold openedWin
      rw [List.map_append]
      rfl
    · rw [List.map_map]
      exact List.map_congr_left fun y _ => (boundBand_marked _ _ y).same.1
    · exact (boundBand_firstEntry b s r).1
    · exact (boundBand_firstEntry b s r).2.1
    · exact (boundBand_firstEntry b s r).2.2

/-! ## An opened page binds or waits (R48 to R51) -/

theorem bindOpened_of_first {p : Page} {s : State} (hc : p.continuous = true) (hp : p.pred = none) (offset : Nat) :
    bindOpened p offset s = bindFrom p ((captureOf s.posn.pos).toNat + offset) s := by
  unfold bindOpened
  rw [if_pos hc, hp]

theorem bindOpened_of_behind {p : Page} {s : State} {id e : Nat} (hc : p.continuous = true) (hp : p.pred = some id)
    (he : predEnd s p = some e) (offset : Nat) : bindOpened p offset s = bindFrom p (e + offset) s := by
  unfold bindOpened
  rw [if_pos hc, hp]
  dsimp only
  rw [he]

theorem bindOpened_of_following {p : Page} {s : State} {id : Nat} (hc : p.continuous = true) (hp : p.pred = some id)
    (he : predEnd s p = none) (offset : Nat) : bindOpened p offset s = s := by
  unfold bindOpened
  rw [if_pos hc, hp]
  dsimp only
  rw [he]

theorem bindOpened_of_capture {p : Page} {s : State} {q : BitVec 40} {qs : List (BitVec 40)} (hc : p.continuous = false)
    (hq : s.posn.productQueue = q :: qs) (offset : Nat) : bindOpened p offset s =
      bindFrom p (q.toNat + offset) (s.withPosn { s.posn with productQueue := qs }) := by
  unfold bindOpened
  rw [if_neg (by rw [hc]; exact Bool.false_ne_true), hq]

theorem bindOpened_of_no_capture {p : Page} {s : State} (hc : p.continuous = false) (hq : s.posn.productQueue = [])
    (offset : Nat) : bindOpened p offset s = s.withWin { s.win with unbound := s.win.unbound ++ [p.id] } := by
  unfold bindOpened
  rw [if_neg (by rw [hc]; exact Bool.false_ne_true), hq]

/-- The end of the page that a page opens behind, once that has an anchor (R51, R52). -/
def endBehind (b : BandRecord) (s : State) : Option Nat := ((openedPage b s).pred.bind (findPage s)).bind pageEnd

/-- An opened page has bound from the anchor `a`: its binding `x`, its band's marks and the heads that return. -/
structure OpenedBinds (b : BandRecord) (s v : State) (e : BandEntry) (x : PageBinding) (a : Nat) (overlap : Bool) :
    Prop where
  binding : x = boundFrom s b.continuous b.offset.toNat a
  heads : ∀ h, v.head h = returnedLink s.win.nextBand (configKind s h) s.tick (s.head h)
  overlap : e.overlap = overlap
  slipped : e.slipped = (b.continuous && reached s.posn.pos (min a (2 ^ 48 - 1) + oMin s.layout))
  late : e.late = true ↔ ∃ y, x = .late y

/-- An opened page waits for its anchor. -/
structure OpenedWaits (s v : State) (e : BandEntry) : Prop where
  heads : ∀ h, v.head h = s.head h
  late : e.late = false
  overlap : e.overlap = false
  slipped : e.slipped = false

/-- The state in which a PAGE_START band is admitted, before page records are removed: a window with the band `e` and
its page, bound as `x`. -/
structure Opened (b : BandRecord) (s v : State) (e : BandEntry) (x : PageBinding) (unbound : List Nat) : Prop where
  only : OnlyChanges [.win, .chans, .posn, .heads] s v
  win : ∃ bs, v.win = openedWin b s bs e x unbound ∧ bs.map BandEntry.id = s.win.bands.map BandEntry.id
  entry : e.unmarked = (firstEntry b s).unmarked

/-- The binding of an opened page, by its kind (R51 to R53). -/
theorem opened_of_bindFrom {b : BandRecord} {s u : State} {x : PageBinding} {unbound : List Nat} (a : Nat)
    (hn : NumberingLaw s) (ho : PageOrderLaw s)
    (hw : u.win = openedWin b s s.win.bands (firstEntry b s) x unbound) (hu : OnlyChanges [.win, .chans, .posn] s u)
    (hpos : u.posn.pos = s.posn.pos) :
    ∃ e y, Opened b s (bindFrom (openedPage b s) a u) e y unbound ∧
      (bindFrom (openedPage b s) a u).posn = u.posn ∧
      (b.continuous = true → OpenedBinds b s (bindFrom (openedPage b s) a u) e y a false) ∧
      (b.continuous = false → OpenedBinds b s (bindFrom (openedPage b s) a u) e y (max a ((endBehind b s).getD 0))
        (decide (a < (endBehind b s).getD 0))) := by
  obtain ⟨halone, hoffset, bs, e, hwin, hids, hentry, hoverlap, hslipped, hlate⟩ := bindPage_openedPage a hn ho hw
  have hlayout : u.layout = s.layout := hu .layout (by decide)
  have hheads : ∀ h, (bindPage (openedPage b s) a u).head h =
      returnedLink s.win.nextBand (configKind s h) s.tick (s.head h) := fun h => by
    have hhead : u.head h = s.head h := hu.head_eq (by decide) h
    have hdue : dueParams u h = dueParams s h := dueParams_congr hlayout (by rw [hhead])
    rw [bindPage_head, configKind, hdue, ← configKind, hhead, show u.tick = s.tick from hu .tick (by decide)]
    rfl
  have hbound : ∀ continuous n, boundFrom u continuous b.offset.toNat n = boundFrom s continuous b.offset.toNat n :=
    fun _ _ => boundFrom_congr hpos hlayout _ _ _
  rw [halone]
  refine ⟨e, _, ⟨((hu.trans (bindPage_onlyChanges _ _ _)).mono (by decide)), ⟨bs, hwin, hids⟩, hentry⟩,
    (bindPage_binds _ _ _).posn, fun hc => ?_, fun hc => ?_⟩
  · rw [bindResult_of_continuous (show (openedPage b s).continuous = true from hc), hoffset, hbound] at hoverlap hslipped hlate ⊢
    exact ⟨by rw [hc], hheads, hoverlap, by rw [hslipped, hc, hpos, hlayout, Bool.true_and], hlate⟩
  · rw [bindResult_of_triggered (show (openedPage b s).continuous = false from hc), hoffset, hbound,
      predEnd_openedPage ho hw] at hoverlap hslipped hlate ⊢
    exact ⟨by rw [hc]; rfl, hheads, hoverlap, by rw [hslipped, hc, Bool.false_and], hlate⟩

/-- The admission of a PAGE_START band, by the kind of its page and what it finds (R48 to R51). -/
theorem placeBand_opened {b : BandRecord} {s : State} (hstart : b.pageStart = true) (hn : NumberingLaw s)
    (ho : PageOrderLaw s) :
    ∃ v e x unbound, placeBand b s = removePages v ∧ Opened b s v e x unbound ∧ v.posn.pos = s.posn.pos ∧
      (b.continuous = false → s.posn.productQueue = [] → v.posn = { s.posn with productQueue := [] } ∧
        unbound = s.win.unbound ++ [s.win.nextPage] ∧ x = .unbound ∧ OpenedWaits s v e) ∧
      (∀ q qs, b.continuous = false → s.posn.productQueue = q :: qs → v.posn = { s.posn with productQueue := qs } ∧
        unbound = s.win.unbound ∧
        OpenedBinds b s v e x (max (q.toNat + b.offset.toNat) ((endBehind b s).getD 0))
          (decide (q.toNat + b.offset.toNat < (endBehind b s).getD 0))) ∧
      (b.continuous = true → v.posn = s.posn ∧ unbound = s.win.unbound ∧
        ((openedPage b s).pred = none →
          OpenedBinds b s v e x ((captureOf s.posn.pos).toNat + b.offset.toNat) false) ∧
        (∀ n, endBehind b s = some n → OpenedBinds b s v e x (n + b.offset.toNat) false) ∧
        ((openedPage b s).pred ≠ none → endBehind b s = none → x = .following ∧ OpenedWaits s v e)) := by
  obtain ⟨u, hplace, hu, hw⟩ := placeBand_of_pageStart hstart hn
  have hposn : u.posn = s.posn := hu .posn (by decide)
  have hu' : OnlyChanges [.win, .chans, .posn] s u := hu.mono (by decide)
  have hheads : ∀ h, u.head h = s.head h := fun h => hu.head_eq (by decide) h
  cases hc : b.continuous with
  | true =>
    have hpc : (openedPage b s).continuous = true := hc
    have hbind : ∀ a, bindOpened (openedPage b s) b.offset.toNat u = bindFrom (openedPage b s) a u →
        ∃ v e x unbound, placeBand b s = removePages v ∧ Opened b s v e x unbound ∧ v.posn = s.posn ∧
          unbound = s.win.unbound ∧ OpenedBinds b s v e x a false := by
      intro a ha
      obtain ⟨e, y, hopened, hpos, hbinds, -⟩ := opened_of_bindFrom a hn ho hw hu' (by rw [hposn])
      exact ⟨_, e, y, _, by rw [hplace, ha], hopened, hpos.trans hposn, rfl, hbinds hc⟩
    cases hp : (openedPage b s).pred with
    | none =>
      have hend : endBehind b s = none := by rw [endBehind, hp]; rfl
      obtain ⟨v, e, x, unbound, hv, hopened, hvposn, hunbound, hbinds⟩ := hbind _ (bindOpened_of_first hpc hp _)
      rw [hposn] at hbinds
      exact ⟨v, e, x, unbound, hv, hopened, by rw [hvposn], nofun, nofun, fun _ => ⟨hvposn, hunbound, fun _ => hbinds,
        fun n h => absurd (hend.symm.trans h) nofun, fun h => absurd rfl h⟩⟩
    | some id =>
      have hpred := predEnd_openedPage ho hw
      cases hend : endBehind b s with
      | some n =>
        obtain ⟨v, e, x, unbound, hv, hopened, hvposn, hunbound, hbinds⟩ :=
          hbind _ (bindOpened_of_behind hpc hp (hpred.trans hend) _)
        exact ⟨v, e, x, unbound, hv, hopened, by rw [hvposn], nofun, nofun, fun _ => ⟨hvposn, hunbound, nofun,
          fun m h => by cases h; exact hbinds, nofun⟩⟩
      | none =>
        refine ⟨u, firstEntry b s, _, _, ?_, ⟨hu.mono (by decide), ⟨_, hw, rfl⟩, rfl⟩, by rw [hposn], nofun, nofun,
          fun _ => ⟨hposn, rfl, nofun, nofun, fun _ _ => ⟨?_, hheads, rfl, rfl, rfl⟩⟩⟩
        · rw [hplace, bindOpened_of_following hpc hp (hpred.trans hend)]
        · rw [openedPage, hc]
          rfl
  | false =>
    have hpc : (openedPage b s).continuous = false := hc
    cases hq : s.posn.productQueue with
    | nil =>
      refine ⟨u.withWin { u.win with unbound := u.win.unbound ++ [(openedPage b s).id] }, firstEntry b s,
        (openedPage b s).binding, s.win.unbound ++ [s.win.nextPage], ?_,
        ⟨(hu.trans (withWin_onlyChanges u _)).mono (by decide), ⟨s.win.bands, ?_, rfl⟩, rfl⟩, by rw [← hposn]; rfl,
        fun _ _ => ⟨?_, rfl, ?_, hheads, rfl, rfl, rfl⟩, nofun, nofun⟩
      · rw [hplace, bindOpened_of_no_capture hpc (by rw [hposn, hq])]
      · rw [hw]
        rfl
      · rw [← hq, ← hposn]
        rfl
      · rw [openedPage, hc]
        rfl
    | cons q qs =>
      obtain ⟨e, y, hopened, hpos, -, hbinds⟩ := opened_of_bindFrom (q.toNat + b.offset.toNat) hn ho
        (show (u.withPosn { u.posn with productQueue := qs }).win = _ from hw)
        ((hu.trans (withPosn_onlyChanges u { u.posn with productQueue := qs })).mono (by decide))
        (by rw [← hposn]; rfl)
      refine ⟨_, e, y, _, ?_, hopened, by rw [hpos, ← hposn]; rfl, nofun, fun q' qs' _ h => ?_, nofun⟩
      · rw [hplace, bindOpened_of_capture hpc (by rw [hposn, hq])]
      · cases h
        exact ⟨by rw [hpos, ← hposn]; rfl, rfl, hbinds hc⟩

/-! ## The admitted band and its page, after the crossings -/

/-- A band at the window's tail, after the crossings. -/
theorem Settled.last {next : Addr} {s t : State} (h : Settled next s t) {bs : List BandEntry} {e : BandEntry}
    (hb : s.win.bands = bs ++ [e]) :
    ∃ y, t.win.bands.getLast? = some y ∧ y.plan = e.plan ∧
      t.win.bands.map BandEntry.id = bs.map BandEntry.id ++ [e.id] := by
  have hplans := h.plans
  rw [hb, List.map_append, List.map_singleton] at hplans
  obtain ⟨l, m, hl, hmap, hlast⟩ := List.map_eq_append_iff.1 hplans
  obtain ⟨y, rfl, hy⟩ := List.map_eq_singleton_iff.1 hlast
  have hids := congrArg (List.map BandEntry.id) hmap
  rw [List.map_map, List.map_map] at hids
  refine ⟨y, by rw [hl]; exact List.getLast?_concat .., hy, ?_⟩
  have hid : y.plan.id = e.plan.id := by rw [hy]
  rw [hl, List.map_append, List.map_singleton, show y.id = e.id from hid]
  exact congrArg (· ++ [e.id]) hids

/-- What a band's plan and its place keep of an entry. -/
theorem plan_unmarked {y e f : BandEntry} (h : y.plan = e.plan) (k : e.unmarked = f.unmarked) :
    y.plan.unmarked = f.plan.unmarked := by
  rw [h]
  exact congrArg BandEntry.plan k

theorem endBehind_eq_some_iff (b : BandRecord) (s : State) (n : Nat) :
    endBehind b s = some n ↔ ∃ p a, (openedPage b s).pred = some p.id ∧ findPage s p.id = some p ∧
      (p.binding = .bound a ∨ p.binding = .late a) ∧ n = a.toNat + 256 * p.count := by
  unfold endBehind
  rw [Option.bind_eq_some_iff]
  constructor
  · rintro ⟨p, hp, hend⟩
    obtain ⟨id, hid, hfind⟩ := Option.bind_eq_some_iff.1 hp
    obtain ⟨a, ha, hn⟩ := (pageEnd_eq_some_iff p n).1 hend
    have hpid := findPage_id hfind
    subst hpid
    exact ⟨p, a, hid, hfind, ha, hn⟩
  · rintro ⟨p, a, hid, hfind, ha, hn⟩
    exact ⟨p, by rw [hid, Option.bind_some, hfind], (pageEnd_eq_some_iff p n).2 ⟨a, ha, hn⟩⟩

theorem bindOpened_onlyChanges (p : Page) (offset : Nat) (s : State) :
    OnlyChanges [.win, .chans, .heads, .posn] s (bindOpened p offset s) := by
  have hbind : ∀ a u, OnlyChanges [.win, .chans, .heads, .posn] u (bindFrom p a u) := fun a u =>
    (bindFrom_binds p a u).onlyChanges.mono (by decide)
  unfold bindOpened
  split
  · split
    · exact hbind _ _
    · split
      · exact hbind _ _
      · exact .refl _ s
  · split
    · exact ((withPosn_onlyChanges s _).mono (by decide)).trans_same (hbind _ _)
    · exact (withWin_onlyChanges s _).mono (by decide)

theorem placeBand_onlyChanges (b : BandRecord) (s : State) :
    OnlyChanges [.win, .chans, .heads, .posn, .ctl, .port] s (placeBand b s) := by
  have hpage : OnlyChanges [.win, .chans, .heads, .posn, .ctl, .port] s (pageFor b s) := by
    rw [pageFor_eq_withWin b s]
    exact (withWin_onlyChanges s _).mono (by decide)
  rw [placeBand_eq]
  split
  · exact (hpage.trans ((withWin_onlyChanges _ _).trans (handOver_onlyChanges _ _))).mono (by decide)
  next p _ =>
    have hjoined := hpage.trans (joinedState_onlyChanges b p (pageFor b s))
    dsimp only
    change OnlyChanges _ s (removePages (if b.pageStart then
      bindOpened p b.offset.toNat (joinedState b p (pageFor b s)) else joinedState b p (pageFor b s)))
    have hbound := (hjoined.trans (.ite (fun _ => bindOpened_onlyChanges p b.offset.toNat _) fun _ => .refl _ _ :
      OnlyChanges [.win, .chans, .heads, .posn] (joinedState b p (pageFor b s)) (if b.pageStart then
        bindOpened p b.offset.toNat (joinedState b p (pageFor b s)) else joinedState b p (pageFor b s))))
    exact (hbound.trans (withWin_onlyChanges _ _)).mono (by decide)

/-! ## BAND_ADMIT -/

theorem exec_bandAdmit_of_room {s : State} {b : BandRecord} {next : Addr} (hw : s.reader.work = .held (.band b) next false)
    (hrun : s.ctl.engine = .running) (hlayout : s.layout ≠ none) (hroom : s.win.bands.length < 64) :
    exec .bandAdmit s = .next (settleAll (followNext next (placeBand b s))) := by
  show execBandAdmit s = _
  unfold execBandAdmit
  rw [hw]
  dsimp only
  rw [if_pos (by rw [reading, hrun]), if_neg (by simpa using hlayout)]
  exact if_pos hroom

theorem exec_bandAdmit_of_no_layout {s : State} {b : BandRecord} {next : Addr}
    (hw : s.reader.work = .held (.band b) next false) (hrun : s.ctl.engine = .running) (hlayout : s.layout = none) :
    exec .bandAdmit s = .next (halt .noLayout s) := by
  show execBandAdmit s = _
  unfold execBandAdmit
  rw [hw]
  dsimp only
  rw [if_pos (by rw [reading, hrun]), if_pos (by rw [hlayout]; rfl)]

/-- A halt keeps a reader that reads nothing. -/
theorem halt_reader_of_no_read {s : State} (h : readerXfer s.reader.work = none) (cause : HaltCause) :
    (halt cause s).reader = s.reader := by
  unfold halt
  split
  · rw [raise_reader, (discardReads_spec _).2.2]
    rw [show readerXfer (s.withCtl { s.ctl with engine := .halted, cause := cause }).reader.work = none from h]
    rfl
  · rfl

/-- A band without PAGE_START joins the open page (R46). -/
theorem placeBand_of_open {b : BandRecord} {s : State} {p : Page} (hstart : b.pageStart = false)
    (hopen : s.win.openPage = some p.id) (hp : findPage s p.id = some p) :
    placeBand b s = removePages (joinedState b p s) := by
  have hnot : ¬b.pageStart = true := by rw [hstart]; exact Bool.false_ne_true
  have hpage : pageFor b s = s := if_neg hnot
  have hfind : s.win.openPage.bind (findPage s) = some p := by rw [hopen, Option.bind_some, hp]
  rw [placeBand_eq, hpage, hfind]
  dsimp only
  rw [if_neg hnot]
  rfl

/-- A band without a page is closed, and takes its number alone (R60). -/
theorem placeBand_of_no_page {b : BandRecord} {s : State} (hstart : b.pageStart = false) (hopen : s.win.openPage = none) :
    placeBand b s = handOver (noPageUnit s b) (s.withWin { s.win with nextBand := s.win.nextBand + 1 }) := by
  have hpage : pageFor b s = s := if_neg (by rw [hstart]; exact Bool.false_ne_true)
  rw [placeBand_eq, hpage, hopen]
  rfl

/-- A joining band's entry: LATE with a LATE page, and with no other mark (R46, R55). -/
theorem joinedEntry_fields (b : BandRecord) (p : Page) (s : State) :
    (joinedEntry b p s).unmarked = (newEntry s b p.id p.count).unmarked ∧ (joinedEntry b p s).overlap = false ∧
    (joinedEntry b p s).slipped = false ∧ ((joinedEntry b p s).late = true ↔ ∃ a, p.binding = .late a) := by
  unfold joinedEntry
  cases p.binding with
  | late a => exact ⟨rfl, rfl, rfl, fun _ => ⟨a, rfl⟩, fun _ => rfl⟩
  | bound a => exact ⟨rfl, rfl, rfl, nofun, fun h => nomatch h.choose_spec⟩
  | unbound => exact ⟨rfl, rfl, rfl, nofun, fun h => nomatch h.choose_spec⟩
  | following => exact ⟨rfl, rfl, rfl, nofun, fun h => nomatch h.choose_spec⟩

/-- Settles O38, by the page opened or joined and what following NEXT and the crossings leave of it. -/
theorem bandAdmission : Obligations.BandAdmission := by
  intro s b next hw hrun hn ho hcount
  refine ⟨fun hlayout => ?_, ?_⟩
  · have hworking : working s = true := (working_iff s).2 (.inl hrun)
    have hctl := halt_ctl_of_working hworking .noLayout
    exact ⟨_, exec_bandAdmit_of_no_layout hw hrun hlayout, by rw [hctl], by rw [hctl],
      halt_onlyChanges .noLayout s .win (by decide), halt_reader_of_no_read (by rw [hw]; rfl) .noLayout⟩
  intro hlayout hroom offset capture prev anchorIn prevEnd admitted kept binds waits
  have hexec := exec_bandAdmit_of_room hw hrun hlayout hroom
  obtain ⟨t, ht, hsteps⟩ := execBandAdmit_steps s
  have hsame : settleAll (followNext next (placeBand b s)) = t := Host.Outcome.next.inj (hexec.symm.trans ht)
  obtain ⟨hreader, hengine⟩ := placeBand_reader_engine b s
  have hset := settleAll_followNext (hengine.trans hrun) next
  rw [hsame] at hset
  have hplaced := placeBand_onlyChanges b s
  have hend : ∀ n, prevEnd n ↔ endBehind b s = some n := fun n => (endBehind_eq_some_iff b s n).symm
  have hcounts : ∀ e, t.win.bands.getLast? = some e → e.CountLaw s.layout := fun e he =>
    hsteps.layout ▸ (hsteps.bandCounts hcount).1 e (List.mem_of_getLast? he)
  refine ⟨t, ht, hsteps.layout, hset.tick.trans (hplaced .tick (by decide)), hsteps.pos, ?_, hsteps.listHead,
    fun h => ?_, fun hstart => ?_, fun p hstart hopen hp => ?_, fun hstart hopen => ?_⟩
  · rw [hset.addr, hreader]
  · rw [hset.sets, hplaced.map_eq (by decide)]
  · obtain ⟨v, e, x, unbound, hplace, hopened, hpos, hwait, hcapture, hcont⟩ := placeBand_opened hstart hn ho
    obtain ⟨bs, hv, hids⟩ := hopened.win
    rw [hplace] at hset
    obtain ⟨y, hlast, hplan, hids'⟩ := hset.last (bs := bs) (e := e) (by
      show v.win.bands = _
      rw [hv]
      rfl)
    have hfield := plan_unmarked hplan hopened.entry
    have hget : ∀ {α : Type} (g : BandEntry → α), g y.plan.unmarked = g (firstEntry b s).plan.unmarked :=
      fun g => congrArg g hfield
    have hmark : ∀ {α : Type} (g : BandEntry → α), g y.plan = g e.plan := fun g => congrArg g hplan
    have hid : e.id = s.win.nextBand := congrArg BandEntry.id hopened.entry
    have hpages : t.win.pages = v.win.pages.filter (pageKept v.win) := by
      rw [hset.win]
      rfl
    have hposn : t.posn = v.posn := hset.posn
    have hunbound : t.win.unbound = unbound := by
      rw [hset.win]
      show v.win.unbound = _
      rw [hv]
      rfl
    have hbinds : ∀ {a overlap}, OpenedBinds b s v e x a overlap → binds t y (newPage b s x) a overlap := by
      intro a overlap h
      refine ⟨h.binding, ?_, (hmark BandEntry.overlap).trans h.overlap, (hmark BandEntry.slipped).trans h.slipped, ?_⟩
      · rw [show y.id = s.win.nextBand from hget BandEntry.id]
        exact headsReturned_of_crosses (u := removePages v) h.heads hset.crosses
      · rw [show y.late = e.late from hmark BandEntry.late]
        exact h.late
    have hwaits : ∀ {z}, x = z → OpenedWaits s v e → waits t y (newPage b s x) z := by
      intro z hz h
      refine ⟨hz, (hmark BandEntry.late).trans h.late, (hmark BandEntry.overlap).trans h.overlap,
        (hmark BandEntry.slipped).trans h.slipped, fun g => ?_⟩
      obtain ⟨q, f, a, hg⟩ := hset.crosses.heads g
      rw [hg, ← h.heads g]
      exact ⟨rfl, rfl⟩
    refine ⟨y, newPage b s x, ⟨hlast, hget BandEntry.id, hget BandEntry.addr, hget BandEntry.lines, hget BandEntry.mask,
      hget BandEntry.notify, hget BandEntry.offset, hget BandEntry.page, hget BandEntry.firstLine, hcounts y hlast, ?_⟩,
      ?_, rfl, rfl, rfl, (hget BandEntry.id).symm, rfl, rfl, ?_, ?_, ?_, ?_, fun q hq hne => ?_, fun hc hq => ?_,
      fun q qs hc hq => ?_, fun hc => ?_⟩
    · rw [hids', hids, hid]
    · rw [hpages, hv]
      refine List.mem_filter.2 ⟨List.mem_append_right _ (List.mem_singleton.2 rfl), pageKept_of_band ⟨e, ?_, ?_⟩⟩
      · exact List.mem_append_right _ (List.mem_singleton.2 rfl)
      · exact congrArg BandEntry.page hopened.entry
    · rw [hset.win]
      show v.win.openPage = _
      rw [hv]
      rfl
    · rw [hset.win]
      show v.win.prevPage = _
      rw [hv]
      rfl
    · rw [hset.win]
      show v.win.firstPage = _
      rw [hv]
      rfl
    · rw [hset.win]
      show v.win.nextPage = _
      rw [hv]
      rfl
    · rw [hpages, hv] at hq
      rcases List.mem_append.1 (List.mem_of_mem_filter hq) with hq | hq
      · obtain ⟨p, hp, rfl⟩ := List.mem_map.1 hq
        exact ⟨p, hp, rfl⟩
      · exact absurd (congrArg Page.id (List.mem_singleton.1 hq)) hne
    · obtain ⟨hvposn, hlist, hx, hw⟩ := hwait hc hq
      exact ⟨⟨hposn.trans hvposn, hunbound.trans hlist⟩, hwaits hx hw⟩
    · obtain ⟨hvposn, hlist, hb⟩ := hcapture q qs hc hq
      refine ⟨⟨hposn.trans hvposn, hunbound.trans hlist⟩, fun n hn => ?_, fun hnone => ?_⟩
      · rw [(hend n).1 hn] at hb
        exact hbinds hb
      · rw [show endBehind b s = none from Option.eq_none_iff_forall_ne_some.2 fun n h => hnone n ((hend n).2 h)] at hb
        simpa using hbinds hb
    · obtain ⟨hvposn, hlist, hfirst, hbehind, hfollow⟩ := hcont hc
      refine ⟨⟨hposn.trans hvposn, hunbound.trans hlist⟩, fun hp => hbinds (hfirst hp),
        fun n hn => hbinds (hbehind n ((hend n).1 hn)), fun hp hnone => ?_⟩
      obtain ⟨hx, hw⟩ := hfollow hp (Option.eq_none_iff_forall_ne_some.2 fun n h => hnone n ((hend n).2 h))
      exact hwaits hx hw
  · have hplace := placeBand_of_open hstart hopen hp
    rw [hplace] at hset
    have hv := joinedState_win b p s
    obtain ⟨y, hlast, hplan, hids⟩ := hset.last (bs := s.win.bands) (e := joinedEntry b p s) (by
      show (joinedState b p s).win.bands = _
      rw [hv])
    obtain ⟨hentry, hoverlap, hslipped, hlate⟩ := joinedEntry_fields b p s
    have hfield := plan_unmarked hplan hentry
    have hget : ∀ {α : Type} (g : BandEntry → α), g y.plan.unmarked = g (newEntry s b p.id p.count).plan.unmarked :=
      fun g => congrArg g hfield
    have hmark : ∀ {α : Type} (g : BandEntry → α), g y.plan = g (joinedEntry b p s).plan := fun g => congrArg g hplan
    refine ⟨y, _, ⟨hlast, hget BandEntry.id, hget BandEntry.addr, hget BandEntry.lines, hget BandEntry.mask,
      hget BandEntry.notify, hget BandEntry.offset, hget BandEntry.page, hget BandEntry.firstLine, hcounts y hlast, ?_⟩,
      ?_, rfl, ?_, (hmark BandEntry.overlap).trans hoverlap, (hmark BandEntry.slipped).trans hslipped, ⟨?_, ?_⟩, ?_, ?_⟩
    · rw [hids, joinedEntry_id]
    · rw [hset.win]
      show _ ∈ (joinedState b p s).win.pages.filter (pageKept (joinedState b p s).win)
      rw [hv]
      refine List.mem_filter.2 ⟨List.mem_map.2 ⟨p, mem_of_findPage hp, if_pos rfl⟩, pageKept_of_band ⟨joinedEntry b p s,
        List.mem_append_right _ (List.mem_singleton.2 rfl), congrArg BandEntry.page hentry⟩⟩
    · rw [show y.late = (joinedEntry b p s).late from hmark BandEntry.late]
      exact hlate
    · exact hset.posn.trans (joinedState_onlyChanges b p s .posn (by decide))
    · rw [hset.win]
      show (joinedState b p s).win.unbound = _
      rw [hv]
    · rw [hset.win]
      show (joinedState b p s).win.openPage = _
      rw [hv, hopen]
    · rw [hset.win]
      show (joinedState b p s).win.prevPage = _
      rw [hv]
  · have hplace := placeBand_of_no_page hstart hopen
    rw [hplace] at hset
    refine ⟨?_, fun hup => ?_⟩
    · rw [hset.plans, show (handOver (noPageUnit s b) (s.withWin { s.win with nextBand := s.win.nextBand + 1 })).win =
        { s.win with nextBand := s.win.nextBand + 1 } from handOver_onlyChanges _ _ .win (by decide)]
    · obtain ⟨tail, htail⟩ := handOver_posts (u := noPageUnit s b)
        (s := s.withWin { s.win with nextBand := s.win.nextBand + 1 }) hup
      obtain ⟨after, hafter⟩ := hset.crosses.outbox
      refine ⟨tail ++ after, ?_⟩
      have hunit : postedWrites (noPageUnit s b).writes =
          ((s.reader.addr + 4, resultWord .noPage 0 0) ::
            (((List.range 7).map fun i => (s.reader.addr + BitVec.ofNat 64 (24 + 4 * i), (0 : Word32))) ++
              [(s.reader.addr + 52, s.posn.pos.line), (s.reader.addr, 0x100)])).flatMap
            fun w => postedWrite w.1 w.2 := by
        rw [noPageUnit, bandUnit_eq]
        rfl
      rw [hafter, htail, hunit]
      exact List.append_assoc _ _ _

end Sys2Proof.Machine
